-- ==== Sys2Proof/Word.lean ====
section
/-! DEFINITION. The word and byte types of the register block (00_scope.md R6, 10_state.md R11). -/

namespace Sys2Proof

/-- A register or command word: 32 bits, bit 0 least significant (R6, R11). -/
abbrev Word := BitVec 32

/-- One byte of a frame, bit 7 most significant (R6). -/
abbrev Byte := BitVec 8

end Sys2Proof
end

