-- ==== Sys2Proof/Syntax.lean ====
section
/-! DEFINITION. The nine commands, the nine registers, the host's transactions and events, and the lines
of the host-program notation. -/

namespace Sys2Proof

/-- The commands, one per row of the opcode table (30_encoding.md R46). No command carries an operand
(R50): the operands come from fixed registers. -/
inductive Instr where
  /-- DECODE (40_frame_decoder.md R57) -/
  | decode
  /-- STALE (R58) -/
  | stale
  /-- HUMRAW (R59) -/
  | humRaw
  /-- TEMPRAW (R60) -/
  | tempRaw
  /-- SCALED (41_scaling_engine.md R72) -/
  | scaled
  /-- HUMSCALED (R73) -/
  | humScaled
  /-- TEMPSCALED (R74) -/
  | tempScaled
  /-- HUM (R75) -/
  | hum
  /-- TEMP (R76) -/
  | temp
  deriving DecidableEq, Repr

/-- The nine registers of the block (10_state.md R11). -/
inductive Reg where
  | cmd
  | status
  | frame
  | meas
  | raw
  | min
  | max
  | scale
  | result
  deriving DecidableEq, Repr

/-- A host transaction (20_memory.md R32). `off` is the byte offset and `size` the width in bytes; only
size 4 is admitted (R33). -/
inductive Transaction where
  | write (off size : Nat) (v : Word)
  | read (off size : Nat)
  deriving DecidableEq, Repr

/-- What can reach the block from outside: a transaction of its host, a reset (70_reset_and_hazards.md
R100), or a transaction of a second host, which 60_exceptions.md R97 says a model refuses. -/
inductive Event where
  | transaction (t : Transaction)
  | reset
  | secondHost (t : Transaction)
  deriving DecidableEq, Repr

/-- One line of a host program in the notation of 30_encoding.md R53. A value is an integer: decimal or
hexadecimal is a matter of spelling only. -/
inductive HostLine where
  /-- `wr <REG>, <value>` -/
  | wr (r : Reg) (v : Int)
  /-- `rd <REG>` -/
  | rd (r : Reg)
  /-- `<MNEMONIC>` -/
  | mnemonic (i : Instr)
  /-- `cmd <value>` -/
  | cmd (v : Int)
  /-- `reset` -/
  | reset
  deriving DecidableEq, Repr

end Sys2Proof
end

