-- ==== Sys2Proof/Decode.lean ====
section
/-! DEFINITION. The command decoder and, after it, the encoder (30_encoding.md sections 1 to 3). -/

namespace Sys2Proof

/-- Why a command word is illegal. -/
inductive DecodeError where
  /-- bits 31:4 are not all 0 (R47) -/
  | reservedBits
  /-- OP is 0x0 or 0xA to 0xF (R48) -/
  | reservedOp
  deriving DecidableEq, Repr

/-- The field OP, bits 3:0 (R45). -/
def opField (w : Word) : BitVec 4 := w.extractLsb' 0 4

/-- The field RSV, bits 31:4 (R45). -/
def rsvField (w : Word) : BitVec 28 := w.extractLsb' 4 28

/-- The opcode map, R46 and R48. -/
def decodeOp (op : BitVec 4) : Except DecodeError Instr :=
  match op.toNat with
  | 0x1 => .ok .decode
  | 0x2 => .ok .stale
  | 0x3 => .ok .humRaw
  | 0x4 => .ok .tempRaw
  | 0x5 => .ok .scaled
  | 0x6 => .ok .humScaled
  | 0x7 => .ok .tempScaled
  | 0x8 => .ok .hum
  | 0x9 => .ok .temp
  | _ => .error .reservedOp

/-- The decoder: total, every 32-bit word gets a verdict (R49). -/
def decode (w : Word) : Except DecodeError Instr :=
  if rsvField w ≠ 0 then .error .reservedBits else decodeOp (opField w)

/-- The OP value of each command (R46). -/
def Instr.op : Instr → BitVec 4
  | .decode => 0x1
  | .stale => 0x2
  | .humRaw => 0x3
  | .tempRaw => 0x4
  | .scaled => 0x5
  | .humScaled => 0x6
  | .tempScaled => 0x7
  | .hum => 0x8
  | .temp => 0x9

/-- The encoder: RSV zero above OP (R45). -/
def encode (i : Instr) : Word := (0 : BitVec 28) ++ i.op

/-- The command word of a table word `w` of `nbits` bits: bits above `nbits` are 0. A command is one
32-bit word, so there is no byte order to lay out (R45, R52; log 8). -/
def tableCommandWord (nbits w : Nat) : Word := BitVec.ofNat 32 (w % 2 ^ nbits)

/-- What the decoder reads from a table word. A word longer than 32 bits is no command (R45; log 8). -/
def decodeTableWord (nbits w : Nat) : Option Instr :=
  if 32 < nbits then none
  else
    match decode (tableCommandWord nbits w) with
    | .ok i => some i
    | .error _ => none

end Sys2Proof
end

