-- ==== Sys2Proof/Machine/State.lean ====
section
/-! DEFINITION. The state of the machine, the reasons a step can stop, and the state after reset. -/

namespace Sys2Proof.Machine

/-- Reasons the machine could stop with a fault: there are none, so the type has no constructor. The
block's own faults are states it goes on from (FAULTED and FCAUSE, 60_exceptions.md R90), and what the
spec gives no step is refused (`Refusal`), in its own words. Safe: log 10. -/
inductive Fault where
  deriving DecidableEq, Repr

/-- Reasons the machine refuses. All are safe: the model stops where the spec says there is no step. -/
inductive Refusal where
  /-- Raised by `exec` for an instruction that has no meaning yet. Safe. No arm uses it. -/
  | notModelled (mnemonic : String)
  /-- Raised by `admitted`: a transaction of `size` bytes, not 4 (20_memory.md R33). Safe. -/
  | accessWidth (size : Nat)
  /-- Raised by `admitted`: an offset that is no multiple of 4 (R34). Safe. -/
  | misaligned (off : Nat)
  /-- Raised by `admitted`: an offset that is not in the register map (R35). Safe. -/
  | unmapped (off : Nat)
  /-- Raised by `runEvent`: a transaction of a second host (60_exceptions.md R97). Safe. -/
  | secondHost
  deriving DecidableEq, Repr

/-- The state: the registers of 10_state.md R11 (STATUS as its fields, R19; log 6), then the model's own
two fields for the host's side (log 1). CMD stores nothing (R18), so it has no field. -/
structure State where
  /-- FRAME (R13) -/
  frame : Word
  /-- MEAS (R14) -/
  meas : Word
  /-- RAW (R16) -/
  raw : Word
  /-- MIN (R16) -/
  min : Word
  /-- MAX (R16) -/
  max : Word
  /-- SCALE (R16) -/
  scale : Word
  /-- RESULT (R17) -/
  result : Word
  /-- STATUS.ERR, bits 1:0 (R20) -/
  err : BitVec 2
  /-- STATUS.MV, bit 2 (R21) -/
  mv : Bool
  /-- STATUS.FAULTED, bit 3 (R22) -/
  faulted : Bool
  /-- STATUS.FCAUSE, bits 7:4 (R23) -/
  fcause : BitVec 4
  /-- MODEL'S OWN: the host program not yet run, next event first (00_scope.md R9) -/
  pending : List Event
  /-- MODEL'S OWN: the words host reads have returned, newest first (20_memory.md R32) -/
  returned : List Word
  deriving DecidableEq, Repr

/-- The state after reset and after power-on (10_state.md R28; 70_reset_and_hazards.md R101). The two
host-side fields are empty: DESIGN CHOICE, log 1. -/
def State.reset : State where
  frame := 0
  meas := 0
  raw := 0
  min := 0
  max := 0
  scale := 0
  result := 0
  err := 0
  mv := false
  faulted := false
  fcause := 0
  pending := []
  returned := []

end Sys2Proof.Machine
end

