-- ==== Sys2Proof/Machine/Flags.lean ====
section
/-! DEFINITION. The fields of STATUS: the error codes, the fault causes, and the word a host read
returns. -/

namespace Sys2Proof.Machine

/-- The recoverable errors (60_exceptions.md R86). -/
inductive CommandError where
  /-- `MeasurementTakenInCommandMode` -/
  | cmode
  /-- `ScaleValueOutOfBounds` -/
  | scaleOob
  deriving DecidableEq, Repr

/-- The causes of the block's fault state (R89). -/
inductive FaultCause where
  | illegalCommand
  | noMeasurement
  | maxNotGreaterThanMin
  | rawOutOfRange
  | scaleNotPositive
  deriving DecidableEq, Repr

/-- STATUS.ERR = NONE (10_state.md R20). -/
def errNone : BitVec 2 := 0

/-- The STATUS.ERR code of an error (R20). -/
def errorCode : CommandError → BitVec 2
  | .cmode => 1
  | .scaleOob => 2

/-- The STATUS.FCAUSE code of a fault (60_exceptions.md R89). -/
def causeCode : FaultCause → BitVec 4
  | .illegalCommand => 1
  | .noMeasurement => 2
  | .maxNotGreaterThanMin => 3
  | .rawOutOfRange => 4
  | .scaleNotPositive => 5

/-- The STATUS word: FCAUSE in bits 7:4, FAULTED bit 3, MV bit 2, ERR bits 1:0, and bits 31:8 hardwired
to 0 (10_state.md R19, R24). -/
def statusWord (s : State) : Word :=
  (0 : BitVec 24) ++ s.fcause ++ BitVec.ofBool s.faulted ++ BitVec.ofBool s.mv ++ s.err

end Sys2Proof.Machine
end

