-- ==== Sys2Proof/Machine/Operands.lean ====
section
/-! DEFINITION. How operands are read: sign extension, the packing of a frame, and the fields of a frame. -/

namespace Sys2Proof.Machine

/-- `sext_32`: the integer a 32-bit two's-complement word stands for (00_scope.md R7). -/
def sext32 (w : Word) : Int := w.toInt

/-- An unsigned register as an integer (R8). -/
def zext (w : Word) : Int := (w.toNat : Int)

/-- `twos_32`: an integer as a 32-bit word (R7). -/
def twos32 (i : Int) : Word := BitVec.ofInt 32 i

/-- The packing of the four frame bytes, B0 most significant (10_state.md R13; 20_memory.md R37). -/
def packFrame (b0 b1 b2 b3 : Byte) : Word := b0 ++ b1 ++ b2 ++ b3

/-- Byte `k` of a frame word, `k` from 0 to 3 (R13). -/
def frameByte (k : Fin 4) (w : Word) : Byte := w.extractLsb' (24 - 8 * k.val) 8

/-- `cmode(w)`: bit 31, bit 7 of byte 0 (40_frame_decoder.md R55). -/
def cmode (w : Word) : Bool := w.getLsbD 31

/-- `stale(w)`: bit 30, bit 6 of byte 0 (R55). -/
def stale (w : Word) : Bool := w.getLsbD 30

/-- `humRaw(w)`: bits 29:16 (R55). -/
def humRaw (w : Word) : BitVec 14 := w.extractLsb' 16 14

/-- `tempRaw(w)`: bits 15:2 (R55). -/
def tempRaw (w : Word) : BitVec 14 := w.extractLsb' 2 14

/-- A raw sample as an integer: unsigned (30_encoding.md R50). -/
def sample (r : BitVec 14) : Int := (r.toNat : Int)

end Sys2Proof.Machine
end

