-- ==== Sys2Proof/Machine/Ops.lean ====
section
/-! DEFINITION. The shared operations: how a command ends, the register map and the access to registers,
and the reset of the block. -/

namespace Sys2Proof.Machine

/-- `complete_ok(v)`: a command succeeds with a result word (60_exceptions.md R87). -/
def completeOk (v : Word) (s : State) : State := { s with result := v, err := errNone }

/-- `complete_err(e)`: a command ends in a recoverable error (R88). -/
def completeErr (e : CommandError) (s : State) : State := { s with err := errorCode e }

/-- `raise Fault(c)`: entry into the sticky fault state (R90). -/
def raiseFault (c : FaultCause) (s : State) : State := { s with faulted := true, fcause := causeCode c }

/-- The reset of the block: every register takes its reset value, and the host's side is left as it is
(70_reset_and_hazards.md R100; log 3). It is the only way out of the fault state (60_exceptions.md R94). -/
def resetBlock (s : State) : State := { State.reset with pending := s.pending, returned := s.returned }

/-- A successful DECODE: FRAME becomes the current Measurement, and no result is produced
(40_frame_decoder.md R57). -/
def acceptFrame (s : State) : State := { s with meas := s.frame, mv := true, err := errNone }

/-- `RequireMeasurement()`, then the rest of the command (R61). -/
def requireMeasurement (rest : State → State) (s : State) : State :=
  if s.mv then rest s else raiseFault .noMeasurement s

/-- The register map (20_memory.md R31). -/
def regOffset : Reg → Nat
  | .cmd => 0x00
  | .status => 0x04
  | .frame => 0x08
  | .meas => 0x0C
  | .raw => 0x10
  | .min => 0x14
  | .max => 0x18
  | .scale => 0x1C
  | .result => 0x20

/-- The register at an offset; no other offset is mapped (R31, R35). -/
def regAt : Nat → Option Reg
  | 0x00 => some .cmd
  | 0x04 => some .status
  | 0x08 => some .frame
  | 0x0C => some .meas
  | 0x10 => some .raw
  | 0x14 => some .min
  | 0x18 => some .max
  | 0x1C => some .scale
  | 0x20 => some .result
  | _ => none

/-- `admitted(off, size)`: the register a transaction reaches, or the refusal that stops it. The spec
gives no order among the three conditions; width, alignment, map is a DESIGN CHOICE (R33, R34, R35;
log 4). -/
def admitted (off size : Nat) : Except Refusal Reg :=
  if size ≠ 4 then .error (.accessWidth size)
  else if off % 4 ≠ 0 then .error (.misaligned off)
  else
    match regAt off with
    | some r => .ok r
    | none => .error (.unmapped off)

/-- What a host read of a register returns (R32); CMD reads as 0 (R36). -/
def readReg : Reg → State → Word
  | .cmd, _ => 0
  | .status, s => statusWord s
  | .frame, s => s.frame
  | .meas, s => s.meas
  | .raw, s => s.raw
  | .min, s => s.min
  | .max, s => s.max
  | .scale, s => s.scale
  | .result, s => s.result

/-- What a host write stores (R32): the read-only registers keep their value (R36), and CMD stores
nothing (10_state.md R18; its command is `executeCommand`'s). -/
def storeReg : Reg → Word → State → State
  | .cmd, _, s => s
  | .status, _, s => s
  | .frame, v, s => { s with frame := v }
  | .meas, _, s => s
  | .raw, v, s => { s with raw := v }
  | .min, v, s => { s with min := v }
  | .max, v, s => { s with max := v }
  | .scale, v, s => { s with scale := v }
  | .result, _, s => s

/-- A host read: the word goes to the host, and no register changes (20_memory.md R40). -/
def hostRead (r : Reg) (s : State) : State := { s with returned := readReg r s :: s.returned }

end Sys2Proof.Machine
end

