-- ==== Sys2Proof/Machine/FrameDecoder.lean ====
section
/-! DEFINITION. The commands of the frame decoder: DECODE, STALE, HUMRAW, TEMPRAW (40_frame_decoder.md). -/

namespace Sys2Proof.Machine

/-- `Exec_DECODE()` (R57). -/
def execDecode (s : State) : Host.Outcome State Fault Refusal :=
  .next (if cmode s.frame then completeErr .cmode s else acceptFrame s)

/-- `Exec_STALE()` (R58). -/
def execStale (s : State) : Host.Outcome State Fault Refusal :=
  .next (requireMeasurement (completeOk ((BitVec.ofBool (stale s.meas)).setWidth 32)) s)

/-- `Exec_HUMRAW()` (R59). -/
def execHumRaw (s : State) : Host.Outcome State Fault Refusal :=
  .next (requireMeasurement (completeOk ((humRaw s.meas).setWidth 32)) s)

/-- `Exec_TEMPRAW()` (R60). -/
def execTempRaw (s : State) : Host.Outcome State Fault Refusal :=
  .next (requireMeasurement (completeOk ((tempRaw s.meas).setWidth 32)) s)

end Sys2Proof.Machine
end

