-- ==== Sys2Proof/Config.lean ====
section
/-! DEFINITION. What is fixed for this hardware: the parameter OUT_W and the constants of 00_scope.md
section 4. The spec leaves no value of this hardware open, so there is no free value here (log 13). -/

namespace Sys2Proof.Config

/-- `OUT_W`, the width of the engine's output integer: 32 for this hardware (00_scope.md R4, log 15). -/
def outW : Nat := 32

/-- `RAW_MAX`: the largest 14-bit raw value and the divisor of the interpolation (R5's table). -/
def rawMax : Int := 16383

/-- `HALF`: half of `RAW_MAX`, truncated (R5's table). -/
def half : Int := 8191

/-- A pair of physical bounds (the glossary's ScaledRange). -/
structure ScaledRange where
  lo : Int
  hi : Int
  deriving DecidableEq, Repr

/-- The humidity range, in %RH (R5's table; 30_encoding.md R51). -/
def humidityRange : ScaledRange := ⟨0, 100⟩

/-- The temperature range, in °C (R5's table; 30_encoding.md R51). -/
def temperatureRange : ScaledRange := ⟨-40, 125⟩

/-- The scale of the rounded accessors HUM and TEMP (R5's table; 30_encoding.md R51). -/
def roundedScale : Int := 1

end Sys2Proof.Config
end

