-- ==== Sys2Proof/Machine/ScalingEngine.lean ====
section
/-! DEFINITION. The scaling core and its commands: SCALED, HUMSCALED, TEMPSCALED, HUM, TEMP
(41_scaling_engine.md). All arithmetic is exact over the integers (R67). -/

namespace Sys2Proof.Machine

/-- `floor_div(a, b)` for `b > 0` (00_scope.md R7): Lean's integer division rounds down for a positive
divisor (log 9). -/
def floorDiv (a b : Int) : Int := a / b

/-- `interp(r, lo, hi, s)` (R65): the scale multiplies before the one rounding division (R83), and the
offset stands outside it (R82). -/
def interp (r lo hi s : Int) : Int :=
  s * lo + floorDiv (s * r * (hi - lo) + Config.half) Config.rawMax

/-- `OUT_MIN` at output width `outW` (00_scope.md R5). -/
def outMin (outW : Nat) : Int := -2 ^ (outW - 1)

/-- `OUT_MAX` at output width `outW` (R5). -/
def outMax (outW : Nat) : Int := 2 ^ (outW - 1) - 1

/-- "fits in the engine's output integer width" (R5). -/
abbrev Fits (outW : Nat) (v : Int) : Prop := outMin outW ≤ v ∧ v ≤ outMax outW

/-- The worst-case check of R66: both extremes of the range fit, whatever the sample is. -/
abbrev WorstCaseFits (outW : Nat) (lo hi s : Int) : Prop :=
  Fits outW (interp Config.rawMax lo hi s) ∧ Fits outW (interp 0 lo hi s)

/-- `ScaleCore(r, lo, hi, s)` at output width `outW` (R66): the checks in order, then the value. -/
def scaleCore (outW : Nat) (r lo hi sc : Int) (s : State) : State :=
  if ¬ lo < hi then raiseFault .maxNotGreaterThanMin s
  else if ¬ (0 ≤ r ∧ r ≤ Config.rawMax) then raiseFault .rawOutOfRange s
  else if ¬ 1 ≤ sc then raiseFault .scaleNotPositive s
  else if ¬ WorstCaseFits outW lo hi sc then completeErr .scaleOob s
  else completeOk (twos32 (interp r lo hi sc)) s

/-- `ScaleCore` over one of the fixed ranges (30_encoding.md R51). -/
def scaleFixed (range : Config.ScaledRange) (r : BitVec 14) (sc : Int) (s : State) : State :=
  scaleCore Config.outW (sample r) range.lo range.hi sc s

/-- `Exec_SCALED()` (R72). -/
def execScaled (s : State) : Host.Outcome State Fault Refusal :=
  .next (scaleCore Config.outW (zext s.raw) (sext32 s.min) (sext32 s.max) (zext s.scale) s)

/-- `Exec_HUMSCALED()` (R73). -/
def execHumScaled (s : State) : Host.Outcome State Fault Refusal :=
  .next (requireMeasurement (scaleFixed Config.humidityRange (humRaw s.meas) (zext s.scale)) s)

/-- `Exec_TEMPSCALED()` (R74). -/
def execTempScaled (s : State) : Host.Outcome State Fault Refusal :=
  .next (requireMeasurement (scaleFixed Config.temperatureRange (tempRaw s.meas) (zext s.scale)) s)

/-- `Exec_HUM()` (R75); SCALE is not read. -/
def execHum (s : State) : Host.Outcome State Fault Refusal :=
  .next (requireMeasurement (scaleFixed Config.humidityRange (humRaw s.meas) Config.roundedScale) s)

/-- `Exec_TEMP()` (R76); SCALE is not read. -/
def execTemp (s : State) : Host.Outcome State Fault Refusal :=
  .next (requireMeasurement (scaleFixed Config.temperatureRange (tempRaw s.meas) Config.roundedScale) s)

end Sys2Proof.Machine
end

