-- ==== Sys2Proof/Machine/Dispatch.lean ====
section
/-! DEFINITION. One arm per command (30_encoding.md R49). -/

namespace Sys2Proof.Machine

def exec (i : Instr) (s : State) : Host.Outcome State Fault Refusal :=
  match i with
  | .decode => Sys2Proof.Machine.execDecode s
  | .stale => Sys2Proof.Machine.execStale s
  | .humRaw => Sys2Proof.Machine.execHumRaw s
  | .tempRaw => Sys2Proof.Machine.execTempRaw s
  | .scaled => Sys2Proof.Machine.execScaled s
  | .humScaled => Sys2Proof.Machine.execHumScaled s
  | .tempScaled => Sys2Proof.Machine.execTempScaled s
  | .hum => Sys2Proof.Machine.execHum s
  | .temp => Sys2Proof.Machine.execTemp s

end Sys2Proof.Machine
end

