-- ==== Sys2Proof/Machine/Command.lean ====
section
/-! DEFINITION. What a CMD write does, and how one event of the host program runs. -/

namespace Sys2Proof.Machine

/-- `ExecuteCommand(w)` (30_encoding.md R49): ignored while faulted (60_exceptions.md R91), a fault of the
block when the word is illegal (R47, R48), else the command's meaning. `exec` itself does not look at FAULTED,
as in the spec's `Exec_` pseudocode: DESIGN CHOICE, log 7. -/
def executeCommand (w : Word) (s : State) : Host.Outcome State Fault Refusal :=
  if s.faulted then .next s
  else
    match decode w with
    | .error _ => .next (raiseFault .illegalCommand s)
    | .ok i => exec i s

/-- `HostWrite` at an admitted register (20_memory.md R32). -/
def hostWrite (r : Reg) (v : Word) (s : State) : Host.Outcome State Fault Refusal :=
  match r with
  | .cmd => executeCommand v s
  | .status | .frame | .meas | .raw | .min | .max | .scale | .result => .next (storeReg r v s)

/-- One host transaction: refused unless admitted (R32 to R35). -/
def runTransaction (t : Transaction) (s : State) : Host.Outcome State Fault Refusal :=
  match t with
  | .write off size v =>
    match admitted off size with
    | .ok r => hostWrite r v s
    | .error e => .refused e
  | .read off size =>
    match admitted off size with
    | .ok r => .next (hostRead r s)
    | .error e => .refused e

/-- One event. A second host is refused (60_exceptions.md R97; log 5). -/
def runEvent (e : Event) (s : State) : Host.Outcome State Fault Refusal :=
  match e with
  | .transaction t => runTransaction t s
  | .reset => .next (resetBlock s)
  | .secondHost _ => .refused .secondHost

/-- One step of the block under its host: the first pending event runs, whole, before the next one
(20_memory.md R39, R41). With no pending event the block waits in its current state
(70_reset_and_hazards.md R109; log 2). -/
def runNext (s : State) : Host.Outcome State Fault Refusal :=
  match s.pending with
  | [] => .next s
  | e :: rest => runEvent e { s with pending := rest }

/-- The CMD write of a command word (30_encoding.md R53, `cmd`). -/
def commandEvent (w : Word) : Event := .transaction (.write (regOffset .cmd) 4 w)

/-- What a host-program line stands for (30_encoding.md R53, R54): a mnemonic is the `cmd` of its word. -/
def expandLine : HostLine → Event
  | .wr r v => .transaction (.write (regOffset r) 4 (twos32 v))
  | .rd r => .transaction (.read (regOffset r) 4)
  | .mnemonic i => commandEvent (encode i)
  | .cmd v => commandEvent (twos32 v)
  | .reset => .reset

/-- The state with a host program put in front of what is pending (00_scope.md R9). -/
def loadProgram (p : List HostLine) (s : State) : State := { s with pending := p.map expandLine ++ s.pending }

end Sys2Proof.Machine
end

