-- ==== Sys2Proof/Machine/Step.lean ====
section
/-! DEFINITION. The step, and the placing of a command where the next step takes it. -/

namespace Sys2Proof.Machine

/-- One step: the next event of the host program (`runNext`). -/
def step (s : State) : Host.Outcome State Fault Refusal := runNext s

/-- The state in which the very next step is the CMD write of a table word. The block fetches nothing
(10_state.md R10): its host writes the command word to CMD (R18; log 1). -/
def State.withFetchWord (s : State) (nbits w : Nat) : State :=
  { s with pending := commandEvent (tableCommandWord nbits w) :: s.pending }

end Sys2Proof.Machine
end

