-- ==== Sys2Proof/Machine/Datapath64.lean ====
section
/-! DEFINITION. The 64-bit implementation of the scaling core that 41_scaling_engine.md R80 describes. No
meaning calls it: the model's semantics is `scaleCore`, and this is what R80 says agrees with it. -/

namespace Sys2Proof.Machine

/-- Whether a 64-bit two's-complement value lies in [-2^31, 2^31 - 1], the range of OUT_W = 32. -/
def fits32 (v : BitVec 64) : Bool := (BitVec.ofInt 64 (-2 ^ 31)).sle v && v.sle (BitVec.ofInt 64 (2 ^ 31 - 1))

/-- `interp` with every operation in 64-bit two's complement, the division truncating. -/
def interp64 (r lo hi sc : BitVec 64) : BitVec 64 :=
  sc * lo + (sc * r * (hi - lo) + BitVec.ofNat 64 8191).sdiv (BitVec.ofNat 64 16383)

/-- SCALED computed by a 64-bit datapath (R80): the overflow check in the closed form of R68, and `interp`
only after the check has passed. -/
def scaled64 (s : State) : State :=
  let lo := s.min.signExtend 64
  let hi := s.max.signExtend 64
  let sc := s.scale.setWidth 64
  let r := s.raw.setWidth 64
  if !lo.slt hi then raiseFault .maxNotGreaterThanMin s
  else if !r.ule (BitVec.ofNat 64 16383) then raiseFault .rawOutOfRange s
  else if sc == 0 then raiseFault .scaleNotPositive s
  else if !(fits32 (sc * hi) && fits32 (sc * lo)) then completeErr .scaleOob s
  else completeOk ((interp64 r lo hi sc).setWidth 32) s

end Sys2Proof.Machine
end

