-- ==== Sys2Proof/Safety.lean ====
section
/-! DEFINITION. What counts as a safe run, in the terms the statements use: the invariant of the registers,
the events the block admits, a run of several steps, what the host last wrote, and which operands two states
share. -/

namespace Sys2Proof.Safety

open Sys2Proof.Machine

/-- A Measurement never has its command-mode flag set (10_state.md R15). -/
abbrev MeasurementNotCommandMode (s : State) : Prop := s.mv = true → s.meas.getLsbD 31 = false

/-- While no Measurement exists, MEAS still holds its reset value: only a successful DECODE writes it, and
that sets MV (R14, R21, R28). -/
abbrev NoMeasurementMeansReset (s : State) : Prop := s.mv = false → s.meas = 0

/-- STATUS.ERR never holds its reserved value 3 (R20). -/
abbrev ErrLegal (s : State) : Prop := s.err ≠ 3

/-- STATUS.FCAUSE is 0 exactly while FAULTED is 0, and never one of the reserved values 6 to 15 (R23). -/
abbrev CauseLegal (s : State) : Prop := (s.faulted = false ↔ s.fcause = 0) ∧ s.fcause.toNat ≤ 5

/-- The invariant of the block's registers. -/
abbrev RegInv (s : State) : Prop :=
  MeasurementNotCommandMode s ∧ NoMeasurementMeansReset s ∧ ErrLegal s ∧ CauseLegal s

/-- A transaction the block admits: 32 bits wide, aligned, at a mapped offset (20_memory.md R33 to R35). -/
abbrev AdmittedAccess (off size : Nat) : Prop := size = 4 ∧ off % 4 = 0 ∧ off ≤ 0x20

/-- An event that is not refused. -/
def Admissible : Event → Prop
  | .transaction (.write off size _) => AdmittedAccess off size
  | .transaction (.read off size) => AdmittedAccess off size
  | .reset => True
  | .secondHost _ => False

/-- A host program the block runs to its end without a refusal. -/
abbrev SafeProgram (p : List Event) : Prop := ∀ e ∈ p, Admissible e

/-- `t` is reached from `s` by `k` steps, none of which stops. (`reaches_iff_run`, in Laws/Run.lean: this is
`Host.Core.run` answering `t`.) -/
def Reaches : Nat → State → State → Prop
  | 0, s, t => t = s
  | k + 1, s, t => ∃ u, step s = .next u ∧ Reaches k u t

/-- What a register the host may write holds after a host program: the word last written at its offset, 0
if a reset came later, and `old` if there was neither (20_memory.md R41, 10_state.md R16, R28). -/
def lastWritten (off : Nat) : List Event → Word → Word
  | [], old => old
  | .transaction (.write o _ v) :: es, old => lastWritten off es (if o = off then v else old)
  | .reset :: es, _ => lastWritten off es 0
  | .transaction (.read _ _) :: es, old => lastWritten off es old
  | .secondHost _ :: es, old => lastWritten off es old

/-- Two states agree on the operands of a command: the sources of 30_encoding.md R50, and MV for the commands
that first require a Measurement (40_frame_decoder.md R61). Nothing is said of any other field. -/
def OperandsAgree : Instr → State → State → Prop
  | .decode, s, s' => s.frame = s'.frame
  | .stale, s, s' => s.mv = s'.mv ∧ s.meas.getLsbD 30 = s'.meas.getLsbD 30
  | .humRaw, s, s' => s.mv = s'.mv ∧ s.meas.extractLsb' 16 14 = s'.meas.extractLsb' 16 14
  | .tempRaw, s, s' => s.mv = s'.mv ∧ s.meas.extractLsb' 2 14 = s'.meas.extractLsb' 2 14
  | .scaled, s, s' => s.raw = s'.raw ∧ s.min = s'.min ∧ s.max = s'.max ∧ s.scale = s'.scale
  | .humScaled, s, s' =>
    s.mv = s'.mv ∧ s.meas.extractLsb' 16 14 = s'.meas.extractLsb' 16 14 ∧ s.scale = s'.scale
  | .tempScaled, s, s' =>
    s.mv = s'.mv ∧ s.meas.extractLsb' 2 14 = s'.meas.extractLsb' 2 14 ∧ s.scale = s'.scale
  | .hum, s, s' => s.mv = s'.mv ∧ s.meas.extractLsb' 16 14 = s'.meas.extractLsb' 16 14
  | .temp, s, s' => s.mv = s'.mv ∧ s.meas.extractLsb' 2 14 = s'.meas.extractLsb' 2 14

end Sys2Proof.Safety
end

