-- ==== Sys2Proof/Certificates/Slice0/Obligations.lean ====
section
/-! DEFINITION. The statements for the provers. A state in which a transaction is about to run is written
`{ s with pending := <event> :: rest }`, and the state after it says what became of every field: a field
that is not named in the record is unchanged. The fields `pending` and `returned`, the host's side, are the
model's own (log 1). -/

open Sys2Proof Sys2Proof.Machine Sys2Proof.Safety

/-! ## Reset -/

/-- 10_state.md R28: the reset values, as fields and as what a host reads at every register. -/
def Obligations.ResetStateValues : Prop :=
  State.reset.frame = 0 ∧ State.reset.meas = 0 ∧ State.reset.raw = 0 ∧ State.reset.min = 0 ∧
  State.reset.max = 0 ∧ State.reset.scale = 0 ∧ State.reset.result = 0 ∧ State.reset.err = 0 ∧
  State.reset.mv = false ∧ State.reset.faulted = false ∧ State.reset.fcause = 0 ∧
  ∀ r : Reg, readReg r State.reset = 0

/-- 70_reset_and_hazards.md R100: a reset event sets every register to its reset value in one step, and it
is the only event that clears a fault. (That the host's side, `pending` and `returned`, is left alone is the
model's reading: log 3.) -/
def Obligations.ResetRestoresRegistersAndAloneClearsFaults : Prop :=
  (∀ (s : State) (rest : List Event),
    step { s with pending := .reset :: rest } =
      .next { frame := 0, meas := 0, raw := 0, min := 0, max := 0, scale := 0, result := 0, err := 0,
              mv := false, faulted := false, fcause := 0, pending := rest, returned := s.returned }) ∧
  (∀ s t : State, s.faulted = true → step s = .next t → t.faulted = false →
    ∃ rest, s.pending = .reset :: rest)

/-! ## Encoding and dispatch -/

/-- 30_encoding.md R46: the opcode map, and that the nine words are the only legal ones: a word decodes to a
command exactly when it is that command's word. -/
def Obligations.DecodeAndEncodeAgreeOnEveryWord : Prop :=
  (encode .decode = 0x00000001 ∧ encode .stale = 0x00000002 ∧ encode .humRaw = 0x00000003 ∧
   encode .tempRaw = 0x00000004 ∧ encode .scaled = 0x00000005 ∧ encode .humScaled = 0x00000006 ∧
   encode .tempScaled = 0x00000007 ∧ encode .hum = 0x00000008 ∧ encode .temp = 0x00000009) ∧
  (∀ (w : Word) (i : Instr), decode w = .ok i ↔ w = encode i) ∧
  (∀ w : Word, (∃ i, decode w = .ok i) ↔ 1 ≤ w.toNat ∧ w.toNat ≤ 9)

/-- Words written out from 30_encoding.md and 95_test_vectors.md section 4. -/
def Obligations.WrittenOutWordsDecode : Prop :=
  decode 0b00000000000000000000000000000001 = .ok .decode ∧
  decode 0b00000000000000000000000000000101 = .ok .scaled ∧
  decode 0b00000000000000000000000000001001 = .ok .temp ∧
  decode 0x00000000 = .error .reservedOp ∧ decode 0x0000000A = .error .reservedOp ∧
  decode 0x0000000F = .error .reservedOp ∧ decode 0x00000010 = .error .reservedBits ∧
  decode 0x80000001 = .error .reservedBits ∧ decode 0xFFFFFFFF = .error .reservedBits

/-- 30_encoding.md R47 and R48: writing a word that is not one of the nine to CMD raises
`Fault(ILLEGAL_COMMAND)`. -/
def Obligations.IllegalCommandWordRaisesFault : Prop :=
  ∀ (s : State) (rest : List Event) (w : Word), s.faulted = false →
    (w.toNat / 16 ≠ 0 ∨ w.toNat % 16 = 0 ∨ 0xA ≤ w.toNat % 16) →
    step { s with pending := .transaction (.write 0x00 4 w) :: rest } =
      .next { s with pending := rest, faulted := true, fcause := 1 }

/-- A step whose pending event is the CMD write of a legal word runs exactly that command, after the event
has been taken off `pending` (30_encoding.md section 3; the queue is the model's: log 1). -/
def Obligations.StepRunsTheDecodedCommand : Prop :=
  ∀ (s : State) (rest : List Event) (w : Word) (i : Instr), s.faulted = false → decode w = .ok i →
    step { s with pending := .transaction (.write 0x00 4 w) :: rest } = exec i { s with pending := rest }

/-- The host-program notation (30_encoding.md section 5): what each line stands for, that a mnemonic line is
the `cmd` of the command's word and running it runs the command, and that a negative value of a `wr MIN` line
stands for its two's complement. The `wr` and `cmd` clauses range over every register and every integer; on a
line that section 5 does not give (`wr` to CMD, STATUS, MEAS or RESULT, a negative value outside MIN and MAX, a
value outside 32 bits, which is taken modulo 2^32) they state the model's choice, not the spec's: log 11. -/
def Obligations.HostProgramLinesStandForTransactions : Prop :=
  (∀ (r : Reg) (v : Int),
    expandLine (.wr r v) = .transaction (.write (regOffset r) 4 (BitVec.ofInt 32 v)) ∧
    expandLine (.rd r) = .transaction (.read (regOffset r) 4) ∧
    expandLine (.cmd v) = .transaction (.write 0x00 4 (BitVec.ofInt 32 v)) ∧
    expandLine .reset = .reset) ∧
  (∀ i : Instr, expandLine (.mnemonic i) = .transaction (.write 0x00 4 (encode i)) ∧
    expandLine (.mnemonic i) = expandLine (.cmd (encode i).toNat)) ∧
  (∀ (s : State) (i : Instr), s.faulted = false →
    step (loadProgram [.mnemonic i] s) = exec i s) ∧
  expandLine (.wr .min (-40)) = .transaction (.write 0x14 4 0xFFFFFFD8)

/-! ## How a command ends -/

/-- 60_exceptions.md R85: a CMD write ends in exactly one of the four outcomes, each writing what the table
says, and a transaction that is not admitted has no step. The four are told apart by FAULTED before, and
FAULTED and ERR after. -/
def Obligations.CommandEndsInExactlyOneOfFourOutcomes : Prop :=
  (∀ (s : State) (rest : List Event) (w : Word),
    ∃ t, step { s with pending := .transaction (.write 0x00 4 w) :: rest } = .next t ∧
      ((s.faulted = true ∧ t = { s with pending := rest }) ∨
       (s.faulted = false ∧ t.faulted = false ∧ t.err = 0 ∧
         ((w ≠ 1 ∧ ∃ v, t = { s with pending := rest, result := v, err := 0 }) ∨
          (w = 1 ∧ t = { s with pending := rest, meas := s.frame, mv := true, err := 0 }))) ∨
       (s.faulted = false ∧ t.faulted = false ∧ (t.err = 1 ∨ t.err = 2) ∧
         t = { s with pending := rest, err := t.err }) ∨
       (s.faulted = false ∧ t.faulted = true ∧
         t = { s with pending := rest, faulted := true, fcause := t.fcause }))) ∧
  (∀ (s t : State) (rest : List Event) (off size : Nat) (v : Word), ¬ AdmittedAccess off size →
    step { s with pending := .transaction (.write off size v) :: rest } ≠ .next t ∧
    step { s with pending := .transaction (.read off size) :: rest } ≠ .next t)

/-- 60_exceptions.md R92, with the causes of R89: the first condition that applies decides the outcome. -/
def Obligations.FirstApplicableConditionDecides : Prop :=
  ∀ (s : State) (rest : List Event) (w : Word),
    ∃ t, step { s with pending := .transaction (.write 0x00 4 w) :: rest } = .next t ∧
      if s.faulted = true then t = { s with pending := rest }
      else if w.toNat / 16 ≠ 0 then t = { s with pending := rest, faulted := true, fcause := 1 }
      else if w.toNat % 16 = 0 ∨ 0xA ≤ w.toNat % 16 then
        t = { s with pending := rest, faulted := true, fcause := 1 }
      else if w ≠ 1 ∧ w ≠ 5 ∧ s.mv = false then
        t = { s with pending := rest, faulted := true, fcause := 2 }
      else if w = 5 ∧ s.max.toInt ≤ s.min.toInt then
        t = { s with pending := rest, faulted := true, fcause := 3 }
      else if w = 5 ∧ 16383 < s.raw.toNat then
        t = { s with pending := rest, faulted := true, fcause := 4 }
      else if (w = 5 ∨ w = 6 ∨ w = 7) ∧ s.scale = 0 then
        t = { s with pending := rest, faulted := true, fcause := 5 }
      else if w = 1 ∧ s.frame.getLsbD 31 = true then t = { s with pending := rest, err := 1 }
      else if (w = 5 ∧ (2 ^ 31 - 1 < (s.scale.toNat : Int) * s.max.toInt ∨
                        (s.scale.toNat : Int) * s.min.toInt < -2 ^ 31)) ∨
              (w = 6 ∧ 2 ^ 31 - 1 < 100 * s.scale.toNat) ∨
              (w = 7 ∧ 2 ^ 31 - 1 < 125 * s.scale.toNat) then
        t = { s with pending := rest, err := 2 }
      else t.faulted = false ∧ t.err = 0

/-- 60_exceptions.md R90: a CMD write that enters the fault state writes FAULTED and FCAUSE and nothing
else, and the cause is one of 1 to 5. -/
def Obligations.FaultEntryWritesOnlyFaultedAndCause : Prop :=
  ∀ (s t : State) (rest : List Event) (w : Word), s.faulted = false →
    step { s with pending := .transaction (.write 0x00 4 w) :: rest } = .next t → t.faulted = true →
    t = { s with pending := rest, faulted := true, fcause := t.fcause } ∧
    1 ≤ t.fcause.toNat ∧ t.fcause.toNat ≤ 5

/-- 60_exceptions.md R91: while faulted, every CMD write is ignored, host writes of the operand registers and
FRAME still take effect, and host reads still return their registers. -/
def Obligations.FaultedBlockIgnoresCommandsOnly : Prop :=
  ∀ (s : State) (rest : List Event) (v : Word), s.faulted = true →
    step { s with pending := .transaction (.write 0x00 4 v) :: rest } = .next { s with pending := rest } ∧
    step { s with pending := .transaction (.write 0x08 4 v) :: rest } =
      .next { s with pending := rest, frame := v } ∧
    step { s with pending := .transaction (.write 0x10 4 v) :: rest } =
      .next { s with pending := rest, raw := v } ∧
    step { s with pending := .transaction (.write 0x14 4 v) :: rest } =
      .next { s with pending := rest, min := v } ∧
    step { s with pending := .transaction (.write 0x18 4 v) :: rest } =
      .next { s with pending := rest, max := v } ∧
    step { s with pending := .transaction (.write 0x1C 4 v) :: rest } =
      .next { s with pending := rest, scale := v } ∧
    ∀ r : Reg, step { s with pending := .transaction (.read (regOffset r) 4) :: rest } =
      .next { s with pending := rest, returned := readReg r s :: s.returned }

/-- 60_exceptions.md R94 over a whole run: from a faulted state, whatever the host does short of a reset,
the fault, its cause and everything a command could write stay as they are. -/
def Obligations.FaultIsStickyUntilReset : Prop :=
  ∀ (k : Nat) (s t : State), s.faulted = true → Reaches k s t → Event.reset ∉ s.pending.take k →
    t.faulted = true ∧ t.fcause = s.fcause ∧ t.err = s.err ∧ t.mv = s.mv ∧ t.meas = s.meas ∧
    t.result = s.result

/-! ## The frame decoder -/

/-- 20_memory.md R37 and 10_state.md R13: byte 0 is the most significant byte of a frame word, and the bytes
are recovered from it. -/
def Obligations.FrameBytesArePackedMostSignificantFirst : Prop :=
  (∀ b0 b1 b2 b3 : Byte,
    (packFrame b0 b1 b2 b3).toNat = b0.toNat * 2 ^ 24 + b1.toNat * 2 ^ 16 + b2.toNat * 2 ^ 8 + b3.toNat ∧
    frameByte 0 (packFrame b0 b1 b2 b3) = b0 ∧ frameByte 1 (packFrame b0 b1 b2 b3) = b1 ∧
    frameByte 2 (packFrame b0 b1 b2 b3) = b2 ∧ frameByte 3 (packFrame b0 b1 b2 b3) = b3) ∧
  ∀ w : Word, packFrame (frameByte 0 w) (frameByte 1 w) (frameByte 2 w) (frameByte 3 w) = w

/-- 40_frame_decoder.md R55 and R56: the four fields of a frame, from its bytes and from its bits, their
range, and that the two lowest bits reach none of them. -/
def Obligations.FrameFieldsComeFromTheirBits : Prop :=
  (∀ b0 b1 b2 b3 : Byte,
    cmode (packFrame b0 b1 b2 b3) = b0.getLsbD 7 ∧ stale (packFrame b0 b1 b2 b3) = b0.getLsbD 6 ∧
    (humRaw (packFrame b0 b1 b2 b3)).toNat = b0.toNat % 64 * 256 + b1.toNat ∧
    (tempRaw (packFrame b0 b1 b2 b3)).toNat = b2.toNat * 64 + b3.toNat / 4) ∧
  (∀ w : Word,
    cmode w = w.getLsbD 31 ∧ stale w = w.getLsbD 30 ∧
    (humRaw w).toNat = w.toNat / 2 ^ 16 % 2 ^ 14 ∧ (tempRaw w).toNat = w.toNat / 2 ^ 2 % 2 ^ 14 ∧
    (humRaw w).toNat ≤ 16383 ∧ (tempRaw w).toNat ≤ 16383) ∧
  (∀ w w' : Word, w.toNat / 4 = w'.toNat / 4 →
    cmode w = cmode w' ∧ stale w = stale w' ∧ humRaw w = humRaw w' ∧ tempRaw w = tempRaw w')

/-- 40_frame_decoder.md R57: DECODE, its word and its two endings. -/
def Obligations.DecodeValidatesTheFrame : Prop :=
  decode 0x00000001 = .ok .decode ∧
  (∀ s : State, s.frame.getLsbD 31 = true → exec .decode s = .next { s with err := 1 }) ∧
  (∀ s : State, s.frame.getLsbD 31 = false →
    exec .decode s = .next { s with meas := s.frame, mv := true, err := 0 })

/-- 40_frame_decoder.md R58: STALE, its word, its result and its fault. -/
def Obligations.StaleReturnsTheStaleBit : Prop :=
  decode 0x00000002 = .ok .stale ∧
  (∀ s : State, s.mv = true →
    exec .stale s = .next { s with result := BitVec.ofNat 32 (s.meas.toNat / 2 ^ 30 % 2), err := 0 }) ∧
  (∀ s : State, s.mv = false → exec .stale s = .next { s with faulted := true, fcause := 2 })

/-- 40_frame_decoder.md R59: HUMRAW, its word, its result and its fault. -/
def Obligations.HumRawReturnsTheHumidityField : Prop :=
  decode 0x00000003 = .ok .humRaw ∧
  (∀ s : State, s.mv = true →
    exec .humRaw s =
      .next { s with result := BitVec.ofNat 32 (s.meas.toNat / 2 ^ 16 % 2 ^ 14), err := 0 }) ∧
  (∀ s : State, s.mv = false → exec .humRaw s = .next { s with faulted := true, fcause := 2 })

/-- 40_frame_decoder.md R60: TEMPRAW, its word, its result and its fault. -/
def Obligations.TempRawReturnsTheTemperatureField : Prop :=
  decode 0x00000004 = .ok .tempRaw ∧
  (∀ s : State, s.mv = true →
    exec .tempRaw s =
      .next { s with result := BitVec.ofNat 32 (s.meas.toNat / 2 ^ 2 % 2 ^ 14), err := 0 }) ∧
  (∀ s : State, s.mv = false → exec .tempRaw s = .next { s with faulted := true, fcause := 2 })

/-- 40_frame_decoder.md R61: the seven commands that read a Measurement fault when there is none. -/
def Obligations.AccessorsFaultWithoutAMeasurement : Prop :=
  ∀ (i : Instr) (s : State), i ≠ .decode → i ≠ .scaled → s.mv = false →
    exec i s = .next { s with faulted := true, fcause := 2 }

/-- 40_frame_decoder.md R62: along any run with no reset and no DECODE that succeeds (one issued while not
faulted, on a frame whose command-mode flag is clear), STALE keeps giving the same value. -/
def Obligations.StalenessIsFixedAtDecodeTime : Prop :=
  ∀ (k : Nat) (s t : State), s.mv = true → Reaches k s t →
    (∀ j < k, ∀ u, Reaches j s u →
      u.pending.head? ≠ some .reset ∧
      (u.pending.head? = some (.transaction (.write 0x00 4 1)) →
        u.faulted = true ∨ u.frame.getLsbD 31 = true)) →
    t.meas = s.meas ∧
    ∃ v, exec .stale s = .next { s with result := v, err := 0 } ∧
         exec .stale t = .next { t with result := v, err := 0 }

/-- The Measurement changes only by a successful DECODE, which replaces the whole of it with FRAME in one
step, or by a reset, which alone clears MV (10_state.md sections 2 and 3; 40_frame_decoder.md section 3). -/
def Obligations.OnlyDecodeAndResetTouchTheMeasurement : Prop :=
  ∀ s t : State, step s = .next t → (t.meas ≠ s.meas ∨ t.mv ≠ s.mv) →
    (∃ rest, s.pending = .reset :: rest ∧ t.meas = 0 ∧ t.mv = false) ∨
    (∃ rest, s.pending = .transaction (.write 0x00 4 1) :: rest ∧ s.faulted = false ∧
      s.frame.getLsbD 31 = false ∧ t.meas = s.frame ∧ t.mv = true)

/-- No command but DECODE depends on the two unused bits of MEAS: two states that differ only there end in
states that differ only there (40_frame_decoder.md sections 1 and 3). -/
def Obligations.UnusedFrameBitsReachNoResult : Prop :=
  ∀ (i : Instr) (s : State) (m : Word), i ≠ .decode → m.toNat / 4 = s.meas.toNat / 4 →
    ∃ t, exec i s = .next t ∧ exec i { s with meas := m } = .next { t with meas := m }

/-! ## The scaling engine -/

/-- 00_scope.md R5: the output bounds at OUT_W = 32 and at every width, and the fixed constants of its table. -/
def Obligations.OutputBoundsAndConstants : Prop :=
  Config.outW = 32 ∧ outMin Config.outW = -2147483648 ∧ outMax Config.outW = 2147483647 ∧
  Config.rawMax = 0x3FFF ∧ Config.half = 16383 / 2 ∧ Config.humidityRange = ⟨0, 100⟩ ∧
  Config.temperatureRange = ⟨-40, 125⟩ ∧ Config.roundedScale = 1 ∧
  ∀ w : Nat, outMin w = -2 ^ (w - 1) ∧ outMax w = 2 ^ (w - 1) - 1 ∧
    ∀ v : Int, Fits w v ↔ outMin w ≤ v ∧ v ≤ outMax w

/-- 41_scaling_engine.md R68: the closed forms of the two extremes, and the check they give at any output
width. -/
def Obligations.ExtremesHaveClosedForms : Prop :=
  ∀ lo hi sc : Int, lo < hi → 1 ≤ sc →
    interp 0 lo hi sc = sc * lo ∧ interp 16383 lo hi sc = sc * hi ∧
    ∀ w : Nat, WorstCaseFits w lo hi sc ↔ outMin w ≤ sc * lo ∧ sc * hi ≤ outMax w

/-- 41_scaling_engine.md R69: the result is the exact value rounded to the nearest integer (it is off by less
than one half, so no tie occurs): the distance, times 2 * 16383, is below 16383. -/
def Obligations.RoundingIsToNearest : Prop :=
  ∀ r lo hi sc : Int, lo < hi → 1 ≤ sc → 0 ≤ r →
    2 * |16383 * (interp r lo hi sc - sc * lo) - sc * r * (hi - lo)| < 16383

/-- 41_scaling_engine.md R70: monotonicity in the sample, the range it gives, and that the result of a
scaling that passes the check fits the output width and is represented exactly. -/
def Obligations.InterpolationIsMonotoneAndInRange : Prop :=
  ∀ lo hi sc : Int, lo < hi → 1 ≤ sc →
    (∀ r r' : Int, r ≤ r' → interp r lo hi sc ≤ interp r' lo hi sc) ∧
    ∀ r : Int, 0 ≤ r → r ≤ 16383 →
      sc * lo ≤ interp r lo hi sc ∧ interp r lo hi sc ≤ sc * hi ∧
      ∀ w : Nat, w ≤ 32 → WorstCaseFits w lo hi sc →
        Fits w (interp r lo hi sc) ∧ (twos32 (interp r lo hi sc)).toInt = interp r lo hi sc

/-- 41_scaling_engine.md R71: once the contract checks pass, success or SCALE_OOB does not depend on the
sample, at any output width; and for (0, 100) the success set is 1 ≤ s ≤ floor(OUT_MAX / 100). -/
def Obligations.OverflowCheckIsStatic : Prop :=
  (∀ (w : Nat) (r r' lo hi sc : Int) (s : State), lo < hi → 1 ≤ sc →
    0 ≤ r → r ≤ 16383 → 0 ≤ r' → r' ≤ 16383 →
    (scaleCore w r lo hi sc s = { s with err := 2 } ∧ scaleCore w r' lo hi sc s = { s with err := 2 }) ∨
    (scaleCore w r lo hi sc s = { s with result := twos32 (interp r lo hi sc), err := 0 } ∧
     scaleCore w r' lo hi sc s = { s with result := twos32 (interp r' lo hi sc), err := 0 })) ∧
  (∀ (w : Nat) (r sc : Int) (s : State), 8 ≤ w → w ≤ 32 → 0 ≤ r → r ≤ 16383 → 1 ≤ sc →
    ((∃ v, scaleCore w r 0 100 sc s = { s with result := v, err := 0 }) ↔ sc ≤ outMax w / 100))

/-- 41_scaling_engine.md R72: SCALED, its word, its faults in order, its error, and its result. -/
def Obligations.ScaledChecksThenInterpolates : Prop :=
  decode 0x00000005 = .ok .scaled ∧
  (∀ s : State, s.max.toInt ≤ s.min.toInt →
    exec .scaled s = .next { s with faulted := true, fcause := 3 }) ∧
  (∀ s : State, s.min.toInt < s.max.toInt → 16383 < s.raw.toNat →
    exec .scaled s = .next { s with faulted := true, fcause := 4 }) ∧
  (∀ s : State, s.min.toInt < s.max.toInt → s.raw.toNat ≤ 16383 → s.scale.toNat = 0 →
    exec .scaled s = .next { s with faulted := true, fcause := 5 }) ∧
  (∀ s : State, s.min.toInt < s.max.toInt → s.raw.toNat ≤ 16383 → 1 ≤ s.scale.toNat →
    (2 ^ 31 - 1 < (s.scale.toNat : Int) * s.max.toInt ∨ (s.scale.toNat : Int) * s.min.toInt < -2 ^ 31) →
    exec .scaled s = .next { s with err := 2 }) ∧
  (∀ s : State, s.min.toInt < s.max.toInt → s.raw.toNat ≤ 16383 → 1 ≤ s.scale.toNat →
    (s.scale.toNat : Int) * s.max.toInt ≤ 2 ^ 31 - 1 → -2 ^ 31 ≤ (s.scale.toNat : Int) * s.min.toInt →
    exec .scaled s = .next { s with
      result := BitVec.ofInt 32 ((s.scale.toNat : Int) * s.min.toInt +
        ((s.scale.toNat : Int) * s.raw.toNat * (s.max.toInt - s.min.toInt) + 8191) / 16383),
      err := 0 })

/-- The corner case of SCALED for large scales (41_scaling_engine.md section 2): above 2^31 every legal range
overflows, and 2^31 itself succeeds only for the range (-1, 0), with the results -2^31 and 0 at its ends. -/
def Obligations.ScalesAboveTwoToThe31NeverSucceed : Prop :=
  (∀ s : State, s.min.toInt < s.max.toInt → s.raw.toNat ≤ 16383 → 2 ^ 31 < s.scale.toNat →
    exec .scaled s = .next { s with err := 2 }) ∧
  (∀ s : State, s.min.toInt < s.max.toInt → s.raw.toNat ≤ 16383 → s.scale.toNat = 2 ^ 31 →
    ¬ (s.min.toInt = -1 ∧ s.max.toInt = 0) → exec .scaled s = .next { s with err := 2 }) ∧
  (∀ s : State, s.min.toInt = -1 → s.max.toInt = 0 → s.scale.toNat = 2 ^ 31 → s.raw.toNat = 0 →
    exec .scaled s = .next { s with result := 0x80000000, err := 0 }) ∧
  (∀ s : State, s.min.toInt = -1 → s.max.toInt = 0 → s.scale.toNat = 2 ^ 31 → s.raw.toNat = 16383 →
    exec .scaled s = .next { s with result := 0, err := 0 })

/-- 41_scaling_engine.md R73: HUMSCALED, its word, its faults, its error and its result. -/
def Obligations.HumScaledScalesTheHumidity : Prop :=
  decode 0x00000006 = .ok .humScaled ∧
  (∀ s : State, s.mv = false → exec .humScaled s = .next { s with faulted := true, fcause := 2 }) ∧
  (∀ s : State, s.mv = true → s.scale.toNat = 0 →
    exec .humScaled s = .next { s with faulted := true, fcause := 5 }) ∧
  (∀ s : State, s.mv = true → 2 ^ 31 - 1 < 100 * s.scale.toNat →
    exec .humScaled s = .next { s with err := 2 }) ∧
  (∀ s : State, s.mv = true → 1 ≤ s.scale.toNat → 100 * s.scale.toNat ≤ 2 ^ 31 - 1 →
    exec .humScaled s = .next { s with
      result := BitVec.ofNat 32 ((s.scale.toNat * (s.meas.toNat / 2 ^ 16 % 2 ^ 14) * 100 + 8191) / 16383),
      err := 0 })

/-- 41_scaling_engine.md R74: TEMPSCALED, its word, its faults, its error and its result. -/
def Obligations.TempScaledScalesTheTemperature : Prop :=
  decode 0x00000007 = .ok .tempScaled ∧
  (∀ s : State, s.mv = false → exec .tempScaled s = .next { s with faulted := true, fcause := 2 }) ∧
  (∀ s : State, s.mv = true → s.scale.toNat = 0 →
    exec .tempScaled s = .next { s with faulted := true, fcause := 5 }) ∧
  (∀ s : State, s.mv = true → 2 ^ 31 - 1 < 125 * s.scale.toNat →
    exec .tempScaled s = .next { s with err := 2 }) ∧
  (∀ s : State, s.mv = true → 1 ≤ s.scale.toNat → 125 * s.scale.toNat ≤ 2 ^ 31 - 1 →
    exec .tempScaled s = .next { s with
      result := BitVec.ofInt 32 (-40 * (s.scale.toNat : Int) +
        ((s.scale.toNat * (s.meas.toNat / 2 ^ 2 % 2 ^ 14) * 165 + 8191) / 16383 : Nat)),
      err := 0 })

/-- 41_scaling_engine.md R75: HUM, its word, its fault, its result, the range of the result, and that it is
HUMSCALED at scale 1. -/
def Obligations.HumRoundsTheHumidity : Prop :=
  decode 0x00000008 = .ok .hum ∧
  (∀ s : State, s.mv = false → exec .hum s = .next { s with faulted := true, fcause := 2 }) ∧
  (∀ s : State, s.mv = true →
    exec .hum s = .next { s with
      result := BitVec.ofNat 32 (((s.meas.toNat / 2 ^ 16 % 2 ^ 14) * 100 + 8191) / 16383), err := 0 } ∧
    ((s.meas.toNat / 2 ^ 16 % 2 ^ 14) * 100 + 8191) / 16383 ≤ 100) ∧
  (∀ s : State, s.scale = 1 → exec .hum s = exec .humScaled s)

/-- 41_scaling_engine.md R76: TEMP, its word, its fault, its result, the range of the result, and that it is
TEMPSCALED at scale 1. -/
def Obligations.TempRoundsTheTemperature : Prop :=
  decode 0x00000009 = .ok .temp ∧
  (∀ s : State, s.mv = false → exec .temp s = .next { s with faulted := true, fcause := 2 }) ∧
  (∀ s : State, s.mv = true →
    exec .temp s = .next { s with
      result := BitVec.ofInt 32 (-40 +
        (((s.meas.toNat / 2 ^ 2 % 2 ^ 14) * 165 + 8191) / 16383 : Nat)), err := 0 } ∧
    ((s.meas.toNat / 2 ^ 2 % 2 ^ 14) * 165 + 8191) / 16383 ≤ 165) ∧
  (∀ s : State, s.scale = 1 → exec .temp s = exec .tempScaled s)

/-- 41_scaling_engine.md R77: the ranges of the four fixed-range results, and that each end is reached at raw
0 and at raw 16383. -/
def Obligations.FixedRangeResultsStayInRange : Prop :=
  ∀ (s t : State), s.faulted = false →
    (exec .humScaled s = .next t → t.faulted = false → t.err = 0 →
      0 ≤ t.result.toInt ∧ t.result.toInt ≤ 100 * s.scale.toNat ∧
      (s.meas.toNat / 2 ^ 16 % 2 ^ 14 = 0 → t.result.toInt = 0) ∧
      (s.meas.toNat / 2 ^ 16 % 2 ^ 14 = 16383 → t.result.toInt = 100 * s.scale.toNat)) ∧
    (exec .tempScaled s = .next t → t.faulted = false → t.err = 0 →
      -40 * (s.scale.toNat : Int) ≤ t.result.toInt ∧ t.result.toInt ≤ 125 * s.scale.toNat ∧
      (s.meas.toNat / 2 ^ 2 % 2 ^ 14 = 0 → t.result.toInt = -40 * (s.scale.toNat : Int)) ∧
      (s.meas.toNat / 2 ^ 2 % 2 ^ 14 = 16383 → t.result.toInt = 125 * s.scale.toNat)) ∧
    (exec .hum s = .next t → t.faulted = false →
      0 ≤ t.result.toInt ∧ t.result.toInt ≤ 100 ∧
      (s.meas.toNat / 2 ^ 16 % 2 ^ 14 = 0 → t.result.toInt = 0) ∧
      (s.meas.toNat / 2 ^ 16 % 2 ^ 14 = 16383 → t.result.toInt = 100)) ∧
    (exec .temp s = .next t → t.faulted = false →
      -40 ≤ t.result.toInt ∧ t.result.toInt ≤ 125 ∧
      (s.meas.toNat / 2 ^ 2 % 2 ^ 14 = 0 → t.result.toInt = -40) ∧
      (s.meas.toNat / 2 ^ 2 % 2 ^ 14 = 16383 → t.result.toInt = 125))

/-- 41_scaling_engine.md R78: for the two fixed ranges the check of the minimum follows from that of the
maximum, at scale 1 both hold at every width from 8 on, and HUM and TEMP never end in SCALE_OOB. -/
def Obligations.FixedRangesNeedNoMinimumCheck : Prop :=
  (∀ (w : Nat) (sc : Int), 1 ≤ sc →
    (Fits w (interp 16383 0 100 sc) → Fits w (interp 0 0 100 sc)) ∧
    (Fits w (interp 16383 (-40) 125 sc) → Fits w (interp 0 (-40) 125 sc))) ∧
  (∀ w : Nat, 8 ≤ w → WorstCaseFits w 0 100 1 ∧ WorstCaseFits w (-40) 125 1) ∧
  (∀ s t : State, s.faulted = false → (exec .hum s = .next t ∨ exec .temp s = .next t) →
    t.faulted = false → t.err = 0)

/-- 41_scaling_engine.md R79: the exact scale thresholds at OUT_W = 32. "Succeeds" is: ends not faulted with
ERR = 0, from a state that is not faulted. -/
def Obligations.ScaleThresholds : Prop :=
  ∀ s : State, s.faulted = false →
    (s.mv = true →
      ((∃ t, exec .humScaled s = .next t ∧ t.faulted = false ∧ t.err = 0) ↔
        1 ≤ s.scale.toNat ∧ s.scale.toNat ≤ 21474836)) ∧
    (s.min = 0 → s.max = 100 → s.raw.toNat ≤ 16383 →
      ((∃ t, exec .scaled s = .next t ∧ t.faulted = false ∧ t.err = 0) ↔
        1 ≤ s.scale.toNat ∧ s.scale.toNat ≤ 21474836)) ∧
    (s.mv = true →
      ((∃ t, exec .tempScaled s = .next t ∧ t.faulted = false ∧ t.err = 0) ↔
        1 ≤ s.scale.toNat ∧ s.scale.toNat ≤ 17179869)) ∧
    (s.mv = true → s.scale.toNat = 2 ^ 24 →
      (∃ t, exec .humScaled s = .next t ∧ t.faulted = false ∧ t.err = 0) ∧
      (∃ t, exec .tempScaled s = .next t ∧ t.faulted = false ∧ t.err = 0))

/-- The 64-bit datapath of 41_scaling_engine.md section 4 computes SCALED: closed-form check first, 64-bit
wrapping arithmetic and truncating division after it, and the same end state from every state. -/
def Obligations.SixtyFourBitDatapathComputesScaled : Prop :=
  ∀ s : State, exec .scaled s = .next (scaled64 s)

/-- 41_scaling_engine.md R82: the interpolation equals the combined formula under floor division, and the
truncating reading of it is a different function: at (0, -40, 125, 1) it gives -39, not -40. -/
def Obligations.CombinedFormulaNeedsFloorDivision : Prop :=
  (∀ r lo hi sc : Int,
    interp r lo hi sc = Int.fdiv (sc * (lo * 16383 + r * (hi - lo)) + 8191) 16383) ∧
  Int.tdiv (1 * (-40 * 16383 + 0 * (125 - -40)) + 8191) 16383 = -39 ∧ interp 0 (-40) 125 1 = -40

/-- 41_scaling_engine.md R83: the scale multiplies before the rounding division; rounding first would give 0
where the engine gives 1. -/
def Obligations.ScaleMultipliesBeforeRounding : Prop :=
  (∀ r lo hi sc : Int, interp r lo hi sc = sc * lo + Int.fdiv (sc * r * (hi - lo) + 8191) 16383) ∧
  interp 1 0 100 100 = 1 ∧ interp 1 0 100 1 * 100 = 0

/-! ## The register interface -/

/-- 20_memory.md R31, R32 and R36: the register map. What a host read returns at every mapped offset (STATUS
by its fields, 10_state.md R19 and R24), and what a host write does there. -/
def Obligations.RegisterMapReadsAndWrites : Prop :=
  (∀ s : State, (statusWord s).toNat =
    s.err.toNat + 4 * s.mv.toNat + 8 * s.faulted.toNat + 16 * s.fcause.toNat) ∧
  (∀ (s : State) (rest : List Event) (off : Nat) (v : Word),
    ((off = 0x00 ∧ v = 0) ∨ (off = 0x04 ∧ v = statusWord s) ∨ (off = 0x08 ∧ v = s.frame) ∨
     (off = 0x0C ∧ v = s.meas) ∨ (off = 0x10 ∧ v = s.raw) ∨ (off = 0x14 ∧ v = s.min) ∨
     (off = 0x18 ∧ v = s.max) ∨ (off = 0x1C ∧ v = s.scale) ∨ (off = 0x20 ∧ v = s.result)) →
    step { s with pending := .transaction (.read off 4) :: rest } =
      .next { s with pending := rest, returned := v :: s.returned }) ∧
  (∀ (s : State) (rest : List Event) (v : Word),
    step { s with pending := .transaction (.write 0x00 4 v) :: rest } =
      executeCommand v { s with pending := rest } ∧
    step { s with pending := .transaction (.write 0x04 4 v) :: rest } = .next { s with pending := rest } ∧
    step { s with pending := .transaction (.write 0x08 4 v) :: rest } =
      .next { s with pending := rest, frame := v } ∧
    step { s with pending := .transaction (.write 0x0C 4 v) :: rest } = .next { s with pending := rest } ∧
    step { s with pending := .transaction (.write 0x10 4 v) :: rest } =
      .next { s with pending := rest, raw := v } ∧
    step { s with pending := .transaction (.write 0x14 4 v) :: rest } =
      .next { s with pending := rest, min := v } ∧
    step { s with pending := .transaction (.write 0x18 4 v) :: rest } =
      .next { s with pending := rest, max := v } ∧
    step { s with pending := .transaction (.write 0x1C 4 v) :: rest } =
      .next { s with pending := rest, scale := v } ∧
    step { s with pending := .transaction (.write 0x20 4 v) :: rest } = .next { s with pending := rest })

/-- 20_memory.md R33, R34 and R35: a transaction has a step exactly when it is 32 bits wide, aligned and at a
mapped offset; any other is refused. -/
def Obligations.OnlyAdmittedTransactionsHaveAStep : Prop :=
  ∀ (s : State) (rest : List Event) (off size : Nat) (v : Word),
    ((∃ t, step { s with pending := .transaction (.write off size v) :: rest } = .next t) ↔
      size = 4 ∧ off % 4 = 0 ∧ off ≤ 0x20) ∧
    ((∃ t, step { s with pending := .transaction (.read off size) :: rest } = .next t) ↔
      size = 4 ∧ off % 4 = 0 ∧ off ≤ 0x20) ∧
    (¬ (size = 4 ∧ off % 4 = 0 ∧ off ≤ 0x20) →
      (∃ e, step { s with pending := .transaction (.write off size v) :: rest } = .refused e) ∧
      (∃ e, step { s with pending := .transaction (.read off size) :: rest } = .refused e))

/-- 60_exceptions.md R97: a transaction of a second host is refused. -/
def Obligations.SecondHostIsRefused : Prop :=
  ∀ (s : State) (rest : List Event) (x : Transaction),
    step { s with pending := .secondHost x :: rest } = .refused .secondHost

/-- With no pending event the block waits in its current state (70_reset_and_hazards.md section 3; that the
model takes a step there is its own reading: log 2). -/
def Obligations.BlockWaitsWhenTheHostIsSilent : Prop :=
  ∀ s : State, s.pending = [] → step s = .next s

/-- Reads have no side effect on any register and are idempotent, and a write outside CMD changes at most its
own register and is idempotent (20_memory.md section 4). -/
def Obligations.OnlyCommandWritesHaveSideEffects : Prop :=
  (∀ (s t : State) (rest : List Event) (off : Nat),
    step { s with pending := .transaction (.read off 4) :: .transaction (.read off 4) :: rest } = .next t →
    ∃ v, t = { s with pending := .transaction (.read off 4) :: rest, returned := v :: s.returned } ∧
      step t = .next { s with pending := rest, returned := v :: v :: s.returned }) ∧
  (∀ (s t : State) (rest : List Event) (off : Nat) (v : Word), off ≠ 0 →
    step { s with pending := .transaction (.write off 4 v) :: .transaction (.write off 4 v) :: rest } =
      .next t →
    (∀ r : Reg, regOffset r ≠ off → readReg r t = readReg r s) ∧ t.returned = s.returned ∧
    step t = .next { t with pending := rest })

/-- Each step takes exactly the first pending event and leaves the rest of the host program as it is; at most
one word is returned. It rests on 20_memory.md section 4 (one transaction at a time, in program order), but all
it says is about the model's own fields `pending` and `returned`. That the host's side is held there is the
model's DESIGN CHOICE (log 1). That a step with nothing pending waits (log 2) and that a reset leaves `returned`
and the rest of `pending` as they are (log 3) are the model's reading too. -/
def Obligations.OneTransactionAtATimeInProgramOrder : Prop :=
  ∀ s t : State, step s = .next t →
    t.pending = s.pending.tail ∧ (t.returned = s.returned ∨ ∃ v, t.returned = v :: s.returned)

/-- Over any run, the five registers the host may write hold what the host last wrote to them, or 0 after a
later reset, or their old value: no command and no fault ever changes one (10_state.md sections 2 and 6;
20_memory.md section 4). -/
def Obligations.OperandRegistersHoldWhatTheHostLastWrote : Prop :=
  ∀ (k : Nat) (s t : State), Reaches k s t →
    t.frame = lastWritten 0x08 (s.pending.take k) s.frame ∧
    t.raw = lastWritten 0x10 (s.pending.take k) s.raw ∧
    t.min = lastWritten 0x14 (s.pending.take k) s.min ∧
    t.max = lastWritten 0x18 (s.pending.take k) s.max ∧
    t.scale = lastWritten 0x1C (s.pending.take k) s.scale

/-- RESULT changes only by a command that completes without error or fault, never by DECODE, or by a reset
(10_state.md section 2). -/
def Obligations.ResultChangesOnlyBySuccess : Prop :=
  ∀ s t : State, step s = .next t → t.result ≠ s.result →
    (∃ rest, s.pending = .reset :: rest ∧ t.result = 0) ∨
    (∃ rest w, s.pending = .transaction (.write 0x00 4 w) :: rest ∧ 2 ≤ w.toNat ∧ w.toNat ≤ 9 ∧
      s.faulted = false ∧ t.faulted = false ∧ t.err = 0)

/-- Every host program of admitted transactions and resets runs to its end, one step an event, from every
state: no command ever stops the machine (20_memory.md section 4; 70_reset_and_hazards.md section 3). -/
def Obligations.AdmittedProgramsRunToTheirEnd : Prop :=
  ∀ (p : List Event) (s : State), SafeProgram p →
    ∃ t, Reaches p.length { s with pending := p } t ∧ t.pending = []

/-! ## Frames and independence -/

/-- The frame of the eight commands other than DECODE: at most RESULT, ERR, FAULTED and FCAUSE change. MEAS,
MV, FRAME and the operand registers read as before, at every offset but those of STATUS and RESULT. -/
def Obligations.ValueCommandsChangeOnlyResultAndStatus : Prop :=
  ∀ (i : Instr) (s : State), i ≠ .decode →
    ∃ t, exec i s = .next t ∧
      t = { s with result := t.result, err := t.err, faulted := t.faulted, fcause := t.fcause } ∧
      (∀ r : Reg, r ≠ .status → r ≠ .result → readReg r t = readReg r s) ∧
      (t.result ≠ s.result → t.err = 0 ∧ t.faulted = s.faulted ∧ t.fcause = s.fcause)

/-- The frame of DECODE: at most MEAS, MV and ERR change. RESULT, FAULTED, FCAUSE, FRAME and the operand
registers read as before, at every offset but those of STATUS and MEAS. -/
def Obligations.DecodeChangesOnlyTheMeasurementAndErr : Prop :=
  ∀ s : State,
    ∃ t, exec .decode s = .next t ∧ t = { s with meas := t.meas, mv := t.mv, err := t.err } ∧
      ∀ r : Reg, r ≠ .status → r ≠ .meas → readReg r t = readReg r s

/-- Each command reads only its operands (30_encoding.md section 4, with MV by 40_frame_decoder.md section 3):
two states that agree on them, whatever their other registers, STATUS fields and host side hold, end the
command in the same way, with the same values written to the same registers and each state's every other field
as it was. -/
def Obligations.CommandsReadOnlyTheirOperands : Prop :=
  ∀ (i : Instr) (s s' : State), OperandsAgree i s s' →
    (∃ v, exec i s = .next { s with result := v, err := 0 } ∧
          exec i s' = .next { s' with result := v, err := 0 }) ∨
    (∃ m, exec i s = .next { s with meas := m, mv := true, err := 0 } ∧
          exec i s' = .next { s' with meas := m, mv := true, err := 0 }) ∨
    (∃ e, exec i s = .next { s with err := e } ∧ exec i s' = .next { s' with err := e }) ∨
    (∃ c, exec i s = .next { s with faulted := true, fcause := c } ∧
          exec i s' = .next { s' with faulted := true, fcause := c })

/-- 41_scaling_engine.md R84: RESULT is no operand (changing it changes at most RESULT after), no command
writes an operand register, and a command issued a second time, as a command and as a CMD write, ends in the
same state as the first time. -/
def Obligations.RepeatedCommandGivesTheSameOutcome : Prop :=
  (∀ (i : Instr) (s : State) (v : Word), ∃ t t',
    exec i s = .next t ∧ exec i { s with result := v } = .next t' ∧ t' = { t with result := t'.result } ∧
    (t'.result = t.result ∨ (t.result = s.result ∧ t'.result = v))) ∧
  (∀ (i : Instr) (s t : State), exec i s = .next t →
    t.frame = s.frame ∧ t.raw = s.raw ∧ t.min = s.min ∧ t.max = s.max ∧ t.scale = s.scale) ∧
  (∀ (i : Instr) (s : State), ∃ t, exec i s = .next t ∧ exec i t = .next t) ∧
  (∀ (w : Word) (s : State), ∃ t, executeCommand w s = .next t ∧ executeCommand w t = .next t)

/-! ## The invariant -/

/-- The reset state meets the invariant. -/
def Obligations.ResetMeetsTheInvariant : Prop := RegInv State.reset

/-- Every step from a state that meets the invariant keeps it (10_state.md R15, R20, R23): a Measurement
never has its command-mode flag set, MEAS is 0 while there is none, ERR is never 3, and FCAUSE is 0 exactly
while FAULTED is 0 and never above 5. -/
def Obligations.EveryStepKeepsTheInvariant : Prop :=
  ∀ s t : State, RegInv s → step s = .next t → RegInv t
end

