-- ==== Sys2Proof/Laws/Decode.lean ====
section
/-! SUPPORT. The fields of a command word as numbers, and what a decoder verdict says. -/

namespace Sys2Proof

theorem opField_toNat (w : Word) : (opField w).toNat = w.toNat % 16 := by
  simp [opField, BitVec.extractLsb'_toNat]

theorem rsvField_toNat (w : Word) : (rsvField w).toNat = w.toNat / 16 := by
  have := w.isLt
  simp only [rsvField, BitVec.extractLsb'_toNat, Nat.shiftRight_eq_div_pow]
  omega

theorem rsvField_eq_zero_iff (w : Word) : rsvField w = 0 ↔ w.toNat < 16 := by
  rw [← BitVec.toNat_inj, rsvField_toNat]
  simp

/-- The decoder's verdict, on the word as a number. -/
theorem decode_eq (w : Word) :
    decode w = if w.toNat < 16 then decodeOp (BitVec.ofNat 4 w.toNat) else .error .reservedBits := by
  unfold decode
  by_cases h : w.toNat < 16
  · have hop : opField w = BitVec.ofNat 4 w.toNat := by
      rw [← BitVec.toNat_inj, opField_toNat, BitVec.toNat_ofNat]
    simp [(rsvField_eq_zero_iff w).mpr h, h, hop]
  · rw [if_pos (mt (rsvField_eq_zero_iff w).mp h), if_neg h]

/-- A word that decodes lies from 1 to 9. -/
theorem decode_ok_range (w : Word) (i : Instr) (h : decode w = .ok i) : 1 ≤ w.toNat ∧ w.toNat ≤ 9 := by
  rw [decode_eq] at h
  by_cases hw : w.toNat < 16
  · rw [if_pos hw] at h
    generalize w.toNat = n at h hw
    interval_cases n <;> first | omega | simp [decodeOp] at h
  · simp [hw] at h

end Sys2Proof
end

