-- ==== Sys2Proof/Laws/Operands.lean ====
section
/-! SUPPORT. The operand forms as numbers. -/

namespace Sys2Proof.Machine

@[simp] theorem humRaw_toNat (w : Word) : (humRaw w).toNat = w.toNat / 65536 % 16384 := by
  simp [humRaw, BitVec.extractLsb'_toNat, Nat.shiftRight_eq_div_pow]

@[simp] theorem tempRaw_toNat (w : Word) : (tempRaw w).toNat = w.toNat / 4 % 16384 := by
  simp [tempRaw, BitVec.extractLsb'_toNat, Nat.shiftRight_eq_div_pow]

/-- A sample is a 14-bit unsigned integer. -/
theorem sample_range (r : BitVec 14) : 0 ≤ sample r ∧ sample r ≤ 16383 := by
  have := r.isLt
  simp only [sample]; omega

/-- An integer that fits 32 signed bits is recovered from its word. -/
theorem twos32_toInt (i : Int) (hlo : -2 ^ 31 ≤ i) (hhi : i ≤ 2 ^ 31 - 1) : (twos32 i).toInt = i := by
  rw [twos32, BitVec.toInt_ofInt]
  exact Int.bmod_eq_of_le (by omega) (by omega)

/-- A small natural number has one word, however it is encoded. -/
theorem twos32_natCast (n : Nat) : twos32 (n : Int) = BitVec.ofNat 32 n := by
  simp [twos32]

end Sys2Proof.Machine
end

