-- ==== Sys2Proof/Laws/State.lean ====
section
/-! SUPPORT. What each update of the state leaves in each field: one lemma per field per update, and the
`storeReg` lemmas, which say which register a host write reaches. -/

namespace Sys2Proof.Machine

/-! ### completeOk -/

@[simp] theorem completeOk_frame (v : Word) (s : State) : (completeOk v s).frame = s.frame := rfl
@[simp] theorem completeOk_meas (v : Word) (s : State) : (completeOk v s).meas = s.meas := rfl
@[simp] theorem completeOk_raw (v : Word) (s : State) : (completeOk v s).raw = s.raw := rfl
@[simp] theorem completeOk_min (v : Word) (s : State) : (completeOk v s).min = s.min := rfl
@[simp] theorem completeOk_max (v : Word) (s : State) : (completeOk v s).max = s.max := rfl
@[simp] theorem completeOk_scale (v : Word) (s : State) : (completeOk v s).scale = s.scale := rfl
@[simp] theorem completeOk_result (v : Word) (s : State) : (completeOk v s).result = v := rfl
@[simp] theorem completeOk_err (v : Word) (s : State) : (completeOk v s).err = 0 := rfl
@[simp] theorem completeOk_mv (v : Word) (s : State) : (completeOk v s).mv = s.mv := rfl
@[simp] theorem completeOk_faulted (v : Word) (s : State) : (completeOk v s).faulted = s.faulted := rfl
@[simp] theorem completeOk_fcause (v : Word) (s : State) : (completeOk v s).fcause = s.fcause := rfl
@[simp] theorem completeOk_pending (v : Word) (s : State) : (completeOk v s).pending = s.pending := rfl
@[simp] theorem completeOk_returned (v : Word) (s : State) : (completeOk v s).returned = s.returned := rfl

/-! ### completeErr -/

@[simp] theorem completeErr_frame (e : CommandError) (s : State) : (completeErr e s).frame = s.frame := rfl
@[simp] theorem completeErr_meas (e : CommandError) (s : State) : (completeErr e s).meas = s.meas := rfl
@[simp] theorem completeErr_raw (e : CommandError) (s : State) : (completeErr e s).raw = s.raw := rfl
@[simp] theorem completeErr_min (e : CommandError) (s : State) : (completeErr e s).min = s.min := rfl
@[simp] theorem completeErr_max (e : CommandError) (s : State) : (completeErr e s).max = s.max := rfl
@[simp] theorem completeErr_scale (e : CommandError) (s : State) : (completeErr e s).scale = s.scale := rfl
@[simp] theorem completeErr_result (e : CommandError) (s : State) : (completeErr e s).result = s.result := rfl
@[simp] theorem completeErr_err (e : CommandError) (s : State) : (completeErr e s).err = errorCode e := rfl
@[simp] theorem completeErr_mv (e : CommandError) (s : State) : (completeErr e s).mv = s.mv := rfl
@[simp] theorem completeErr_faulted (e : CommandError) (s : State) : (completeErr e s).faulted = s.faulted := rfl
@[simp] theorem completeErr_fcause (e : CommandError) (s : State) : (completeErr e s).fcause = s.fcause := rfl
@[simp] theorem completeErr_pending (e : CommandError) (s : State) : (completeErr e s).pending = s.pending := rfl
@[simp] theorem completeErr_returned (e : CommandError) (s : State) : (completeErr e s).returned = s.returned := rfl

/-! ### raiseFault -/

@[simp] theorem raiseFault_frame (c : FaultCause) (s : State) : (raiseFault c s).frame = s.frame := rfl
@[simp] theorem raiseFault_meas (c : FaultCause) (s : State) : (raiseFault c s).meas = s.meas := rfl
@[simp] theorem raiseFault_raw (c : FaultCause) (s : State) : (raiseFault c s).raw = s.raw := rfl
@[simp] theorem raiseFault_min (c : FaultCause) (s : State) : (raiseFault c s).min = s.min := rfl
@[simp] theorem raiseFault_max (c : FaultCause) (s : State) : (raiseFault c s).max = s.max := rfl
@[simp] theorem raiseFault_scale (c : FaultCause) (s : State) : (raiseFault c s).scale = s.scale := rfl
@[simp] theorem raiseFault_result (c : FaultCause) (s : State) : (raiseFault c s).result = s.result := rfl
@[simp] theorem raiseFault_err (c : FaultCause) (s : State) : (raiseFault c s).err = s.err := rfl
@[simp] theorem raiseFault_mv (c : FaultCause) (s : State) : (raiseFault c s).mv = s.mv := rfl
@[simp] theorem raiseFault_faulted (c : FaultCause) (s : State) : (raiseFault c s).faulted = true := rfl
@[simp] theorem raiseFault_fcause (c : FaultCause) (s : State) : (raiseFault c s).fcause = causeCode c := rfl
@[simp] theorem raiseFault_pending (c : FaultCause) (s : State) : (raiseFault c s).pending = s.pending := rfl
@[simp] theorem raiseFault_returned (c : FaultCause) (s : State) : (raiseFault c s).returned = s.returned := rfl

/-! ### acceptFrame -/

@[simp] theorem acceptFrame_frame (s : State) : (acceptFrame s).frame = s.frame := rfl
@[simp] theorem acceptFrame_meas (s : State) : (acceptFrame s).meas = s.frame := rfl
@[simp] theorem acceptFrame_raw (s : State) : (acceptFrame s).raw = s.raw := rfl
@[simp] theorem acceptFrame_min (s : State) : (acceptFrame s).min = s.min := rfl
@[simp] theorem acceptFrame_max (s : State) : (acceptFrame s).max = s.max := rfl
@[simp] theorem acceptFrame_scale (s : State) : (acceptFrame s).scale = s.scale := rfl
@[simp] theorem acceptFrame_result (s : State) : (acceptFrame s).result = s.result := rfl
@[simp] theorem acceptFrame_err (s : State) : (acceptFrame s).err = 0 := rfl
@[simp] theorem acceptFrame_mv (s : State) : (acceptFrame s).mv = true := rfl
@[simp] theorem acceptFrame_faulted (s : State) : (acceptFrame s).faulted = s.faulted := rfl
@[simp] theorem acceptFrame_fcause (s : State) : (acceptFrame s).fcause = s.fcause := rfl
@[simp] theorem acceptFrame_pending (s : State) : (acceptFrame s).pending = s.pending := rfl
@[simp] theorem acceptFrame_returned (s : State) : (acceptFrame s).returned = s.returned := rfl

/-! ### hostRead -/

@[simp] theorem hostRead_frame (r : Reg) (s : State) : (hostRead r s).frame = s.frame := rfl
@[simp] theorem hostRead_meas (r : Reg) (s : State) : (hostRead r s).meas = s.meas := rfl
@[simp] theorem hostRead_raw (r : Reg) (s : State) : (hostRead r s).raw = s.raw := rfl
@[simp] theorem hostRead_min (r : Reg) (s : State) : (hostRead r s).min = s.min := rfl
@[simp] theorem hostRead_max (r : Reg) (s : State) : (hostRead r s).max = s.max := rfl
@[simp] theorem hostRead_scale (r : Reg) (s : State) : (hostRead r s).scale = s.scale := rfl
@[simp] theorem hostRead_result (r : Reg) (s : State) : (hostRead r s).result = s.result := rfl
@[simp] theorem hostRead_err (r : Reg) (s : State) : (hostRead r s).err = s.err := rfl
@[simp] theorem hostRead_mv (r : Reg) (s : State) : (hostRead r s).mv = s.mv := rfl
@[simp] theorem hostRead_faulted (r : Reg) (s : State) : (hostRead r s).faulted = s.faulted := rfl
@[simp] theorem hostRead_fcause (r : Reg) (s : State) : (hostRead r s).fcause = s.fcause := rfl
@[simp] theorem hostRead_pending (r : Reg) (s : State) : (hostRead r s).pending = s.pending := rfl
@[simp] theorem hostRead_returned (r : Reg) (s : State) : (hostRead r s).returned = readReg r s :: s.returned := rfl

/-! ### resetBlock -/

@[simp] theorem resetBlock_frame (s : State) : (resetBlock s).frame = 0 := rfl
@[simp] theorem resetBlock_meas (s : State) : (resetBlock s).meas = 0 := rfl
@[simp] theorem resetBlock_raw (s : State) : (resetBlock s).raw = 0 := rfl
@[simp] theorem resetBlock_min (s : State) : (resetBlock s).min = 0 := rfl
@[simp] theorem resetBlock_max (s : State) : (resetBlock s).max = 0 := rfl
@[simp] theorem resetBlock_scale (s : State) : (resetBlock s).scale = 0 := rfl
@[simp] theorem resetBlock_result (s : State) : (resetBlock s).result = 0 := rfl
@[simp] theorem resetBlock_err (s : State) : (resetBlock s).err = 0 := rfl
@[simp] theorem resetBlock_mv (s : State) : (resetBlock s).mv = false := rfl
@[simp] theorem resetBlock_faulted (s : State) : (resetBlock s).faulted = false := rfl
@[simp] theorem resetBlock_fcause (s : State) : (resetBlock s).fcause = 0 := rfl
@[simp] theorem resetBlock_pending (s : State) : (resetBlock s).pending = s.pending := rfl
@[simp] theorem resetBlock_returned (s : State) : (resetBlock s).returned = s.returned := rfl

/-! ### storeReg -/

@[simp] theorem storeReg_frame (r : Reg) (v : Word) (s : State) :
    (storeReg r v s).frame = if r = .frame then v else s.frame := by cases r <;> rfl
@[simp] theorem storeReg_meas (r : Reg) (v : Word) (s : State) : (storeReg r v s).meas = s.meas := by
  cases r <;> rfl
@[simp] theorem storeReg_raw (r : Reg) (v : Word) (s : State) :
    (storeReg r v s).raw = if r = .raw then v else s.raw := by cases r <;> rfl
@[simp] theorem storeReg_min (r : Reg) (v : Word) (s : State) :
    (storeReg r v s).min = if r = .min then v else s.min := by cases r <;> rfl
@[simp] theorem storeReg_max (r : Reg) (v : Word) (s : State) :
    (storeReg r v s).max = if r = .max then v else s.max := by cases r <;> rfl
@[simp] theorem storeReg_scale (r : Reg) (v : Word) (s : State) :
    (storeReg r v s).scale = if r = .scale then v else s.scale := by cases r <;> rfl
@[simp] theorem storeReg_result (r : Reg) (v : Word) (s : State) : (storeReg r v s).result = s.result := by
  cases r <;> rfl
@[simp] theorem storeReg_err (r : Reg) (v : Word) (s : State) : (storeReg r v s).err = s.err := by
  cases r <;> rfl
@[simp] theorem storeReg_mv (r : Reg) (v : Word) (s : State) : (storeReg r v s).mv = s.mv := by
  cases r <;> rfl
@[simp] theorem storeReg_faulted (r : Reg) (v : Word) (s : State) : (storeReg r v s).faulted = s.faulted := by
  cases r <;> rfl
@[simp] theorem storeReg_fcause (r : Reg) (v : Word) (s : State) : (storeReg r v s).fcause = s.fcause := by
  cases r <;> rfl
@[simp] theorem storeReg_pending (r : Reg) (v : Word) (s : State) : (storeReg r v s).pending = s.pending := by
  cases r <;> rfl
@[simp] theorem storeReg_returned (r : Reg) (v : Word) (s : State) : (storeReg r v s).returned = s.returned := by
  cases r <;> rfl

end Sys2Proof.Machine
end

