-- ==== Sys2Proof/Laws/Ops.lean ====
section
/-! SUPPORT. One lemma per shared operation that says what it can do. -/

namespace Sys2Proof.Machine

@[simp] theorem requireMeasurement_true (rest : State → State) (s : State) (h : s.mv = true) :
    requireMeasurement rest s = rest s := by simp [requireMeasurement, h]

@[simp] theorem requireMeasurement_false (rest : State → State) (s : State) (h : s.mv = false) :
    requireMeasurement rest s = raiseFault .noMeasurement s := by simp [requireMeasurement, h]

@[simp] theorem regAt_regOffset (r : Reg) : regAt (regOffset r) = some r := by cases r <;> rfl

/-- The register map has one offset per register. -/
theorem regAt_eq_some (off : Nat) (r : Reg) (h : regAt off = some r) : off = regOffset r := by
  unfold regAt at h
  split at h <;> first | (cases h; rfl) | cases h

@[simp] theorem admitted_regOffset (r : Reg) : admitted (regOffset r) 4 = .ok r := by cases r <;> rfl

/-- A transaction is admitted exactly when it is 32 bits wide and at a register's offset. -/
theorem admitted_eq_ok (off size : Nat) (r : Reg) : admitted off size = .ok r ↔ size = 4 ∧ off = regOffset r := by
  constructor
  · intro h
    unfold admitted at h
    by_cases hs : size = 4
    · by_cases ha : off % 4 = 0
      · cases hq : regAt off with
        | none => simp [hs, ha, hq] at h
        | some q =>
          simp only [hs, ha, hq, ne_eq, not_true, if_false, Except.ok.injEq] at h
          exact ⟨hs, h ▸ regAt_eq_some off q hq⟩
      · simp [hs, ha] at h
    · simp [hs] at h
  · rintro ⟨rfl, rfl⟩
    exact admitted_regOffset r

/-- The offsets of the register map are the multiples of 4 up to 0x20. -/
theorem exists_regOffset_iff (off : Nat) : (∃ r, off = regOffset r) ↔ off % 4 = 0 ∧ off ≤ 0x20 := by
  constructor
  · rintro ⟨r, rfl⟩
    cases r <;> decide
  · rintro ⟨h4, hle⟩
    have key : ∀ n < 0x21, n % 4 = 0 → ∃ r, regAt n = some r := by
      intro n hn h
      interval_cases n <;> first | omega | exact ⟨_, rfl⟩
    obtain ⟨r, hr⟩ := key off (by omega) h4
    exact ⟨r, regAt_eq_some off r hr⟩

/-- Only the STATUS and RESULT reads see a command's result and status. -/
theorem readReg_completeOk (v : Word) (s : State) (r : Reg) (h1 : r ≠ .status) (h2 : r ≠ .result) :
    readReg r (completeOk v s) = readReg r s := by
  cases r <;> first | rfl | contradiction

theorem readReg_completeErr (e : CommandError) (s : State) (r : Reg) (h : r ≠ .status) :
    readReg r (completeErr e s) = readReg r s := by
  cases r <;> first | rfl | contradiction

theorem readReg_raiseFault (c : FaultCause) (s : State) (r : Reg) (h : r ≠ .status) :
    readReg r (raiseFault c s) = readReg r s := by
  cases r <;> first | rfl | contradiction

theorem readReg_acceptFrame (s : State) (r : Reg) (h1 : r ≠ .status) (h2 : r ≠ .meas) :
    readReg r (acceptFrame s) = readReg r s := by
  cases r <;> first | rfl | contradiction

end Sys2Proof.Machine
end

