-- ==== Sys2Proof/Laws/Scaling.lean ====
section
/-! SUPPORT. The scaling core: how it can end, and the arithmetic it rests on. -/

namespace Sys2Proof.Machine

/-- `floor_div` rounds down for a positive divisor. -/
theorem floorDiv_eq_fdiv (a b : Int) (h : 0 < b) : floorDiv a b = Int.fdiv a b :=
  (Int.fdiv_eq_ediv_of_nonneg a (Int.le_of_lt h)).symm

/-- The interpolation with its constants written out. -/
theorem interp_eq (r lo hi s : Int) : interp r lo hi s = s * lo + (s * r * (hi - lo) + 8191) / 16383 := rfl

/-- The numerator that is rounded is positive once the contract checks pass (R67). -/
theorem numerator_pos (r lo hi s : Int) (hr : 0 ≤ r) (h : lo < hi) (hs : 1 ≤ s) :
    0 ≤ s * r * (hi - lo) :=
  mul_nonneg (mul_nonneg (by omega) hr) (by omega)

theorem outMin_32 : outMin 32 = -2147483648 := by decide

theorem outMax_32 : outMax 32 = 2147483647 := by decide

/-- What `scaleCore` can do: a fault, the error, or the value, each with the condition it has passed. -/
theorem scaleCore_cases (w : Nat) (r lo hi sc : Int) (s : State) :
    (¬ lo < hi ∧ scaleCore w r lo hi sc s = raiseFault .maxNotGreaterThanMin s) ∨
    (lo < hi ∧ ¬ (0 ≤ r ∧ r ≤ 16383) ∧ scaleCore w r lo hi sc s = raiseFault .rawOutOfRange s) ∨
    (lo < hi ∧ (0 ≤ r ∧ r ≤ 16383) ∧ ¬ 1 ≤ sc ∧
      scaleCore w r lo hi sc s = raiseFault .scaleNotPositive s) ∨
    (lo < hi ∧ (0 ≤ r ∧ r ≤ 16383) ∧ 1 ≤ sc ∧ ¬ WorstCaseFits w lo hi sc ∧
      scaleCore w r lo hi sc s = completeErr .scaleOob s) ∨
    (lo < hi ∧ (0 ≤ r ∧ r ≤ 16383) ∧ 1 ≤ sc ∧ WorstCaseFits w lo hi sc ∧
      scaleCore w r lo hi sc s = completeOk (twos32 (interp r lo hi sc)) s) := by
  unfold scaleCore Config.rawMax
  by_cases h1 : lo < hi
  · rw [if_neg (not_not_intro h1)]
    by_cases h2 : 0 ≤ r ∧ r ≤ 16383
    · rw [if_neg (not_not_intro h2)]
      by_cases h3 : 1 ≤ sc
      · rw [if_neg (not_not_intro h3)]
        by_cases h4 : WorstCaseFits w lo hi sc
        · exact .inr (.inr (.inr (.inr ⟨h1, h2, h3, h4, if_neg (not_not_intro h4)⟩)))
        · exact .inr (.inr (.inr (.inl ⟨h1, h2, h3, h4, if_pos h4⟩)))
      · exact .inr (.inr (.inl ⟨h1, h2, h3, if_pos h3⟩))
    · exact .inr (.inl ⟨h1, h2, if_pos h2⟩)
  · exact .inl ⟨h1, if_pos h1⟩

end Sys2Proof.Machine
end

