-- ==== Sys2Proof/Laws/Exec.lean ====
section
/-! SUPPORT. What a command, an event and a step can do. -/

namespace Sys2Proof.Machine

/-- The four ways a command's meaning ends (60_exceptions.md R85, less the ignored command). -/
inductive Ends (i : Instr) (s : State) : State → Prop
  | success (v : Word) (h : i ≠ .decode) : Ends i s (completeOk v s)
  | accepted (h : i = .decode) (hf : s.frame.getLsbD 31 = false) : Ends i s (acceptFrame s)
  | error (e : CommandError) : Ends i s (completeErr e s)
  | fault (c : FaultCause) (h : i ≠ .decode) (hc : c ≠ .illegalCommand) : Ends i s (raiseFault c s)

theorem scaleCore_ends (i : Instr) (h : i ≠ .decode) (w : Nat) (r lo hi sc : Int) (s : State) :
    Ends i s (scaleCore w r lo hi sc s) := by
  rcases scaleCore_cases w r lo hi sc s with
    ⟨-, e⟩ | ⟨-, -, e⟩ | ⟨-, -, -, e⟩ | ⟨-, -, -, -, e⟩ | ⟨-, -, -, -, e⟩ <;> rw [e]
  · exact .fault _ h (by decide)
  · exact .fault _ h (by decide)
  · exact .fault _ h (by decide)
  · exact .error _
  · exact .success _ h

theorem requireMeasurement_ends (i : Instr) (h : i ≠ .decode) (k : State → State) (s : State)
    (hk : Ends i s (k s)) : Ends i s (requireMeasurement k s) := by
  unfold requireMeasurement
  split
  · exact hk
  · exact .fault _ h (by decide)

/-- Every command ends in a next state, in one of the four ways. -/
theorem exec_ends (i : Instr) (s : State) : ∃ t, exec i s = .next t ∧ Ends i s t := by
  cases i with
  | decode =>
    refine ⟨_, rfl, ?_⟩
    by_cases h : s.frame.getLsbD 31 = true
    · simp only [cmode, h, if_true]; exact .error _
    · simp only [cmode, h]; exact .accepted rfl (by simpa using h)
  | stale => exact ⟨_, rfl, requireMeasurement_ends _ (by decide) _ _ (.success _ (by decide))⟩
  | humRaw => exact ⟨_, rfl, requireMeasurement_ends _ (by decide) _ _ (.success _ (by decide))⟩
  | tempRaw => exact ⟨_, rfl, requireMeasurement_ends _ (by decide) _ _ (.success _ (by decide))⟩
  | scaled => exact ⟨_, rfl, scaleCore_ends _ (by decide) _ _ _ _ _ _⟩
  | humScaled =>
    exact ⟨_, rfl, requireMeasurement_ends _ (by decide) _ _ (scaleCore_ends _ (by decide) _ _ _ _ _ _)⟩
  | tempScaled =>
    exact ⟨_, rfl, requireMeasurement_ends _ (by decide) _ _ (scaleCore_ends _ (by decide) _ _ _ _ _ _)⟩
  | hum =>
    exact ⟨_, rfl, requireMeasurement_ends _ (by decide) _ _ (scaleCore_ends _ (by decide) _ _ _ _ _ _)⟩
  | temp =>
    exact ⟨_, rfl, requireMeasurement_ends _ (by decide) _ _ (scaleCore_ends _ (by decide) _ _ _ _ _ _)⟩

/-- What a CMD write can do: ignored, an illegal word, or the end of a legal command. -/
theorem executeCommand_cases (w : Word) (s : State) :
    (s.faulted = true ∧ executeCommand w s = .next s) ∨
    (s.faulted = false ∧ (∃ e, decode w = .error e) ∧
      executeCommand w s = .next (raiseFault .illegalCommand s)) ∨
    (s.faulted = false ∧ ∃ i t, decode w = .ok i ∧ exec i s = .next t ∧ executeCommand w s = .next t ∧
      Ends i s t) := by
  by_cases hf : s.faulted = true
  · exact .inl ⟨hf, by simp [executeCommand, hf]⟩
  · have hf : s.faulted = false := by simpa using hf
    cases hd : decode w with
    | error e => exact .inr (.inl ⟨hf, ⟨e, rfl⟩, by simp [executeCommand, hf, hd]⟩)
    | ok i =>
      obtain ⟨t, ht, he⟩ := exec_ends i s
      exact .inr (.inr ⟨hf, i, t, rfl, ht, by simp [executeCommand, hf, hd, ht], he⟩)

/-- What an event can do when it answers a next state. -/
theorem runEvent_cases (e : Event) (s t : State) (h : runEvent e s = .next t) :
    (e = .reset ∧ t = resetBlock s) ∨
    (∃ r, e = .transaction (.read (regOffset r) 4) ∧ t = hostRead r s) ∨
    (∃ r v, r ≠ .cmd ∧ e = .transaction (.write (regOffset r) 4 v) ∧ t = storeReg r v s) ∨
    (∃ w, e = .transaction (.write 0 4 w) ∧ executeCommand w s = .next t) := by
  match e, h with
  | .reset, h => cases h; exact .inl ⟨rfl, rfl⟩
  | .secondHost _, h => cases h
  | .transaction (.read off size), h =>
    simp only [runEvent, runTransaction] at h
    cases ha : admitted off size with
    | error e => simp [ha] at h
    | ok r =>
      obtain ⟨rfl, rfl⟩ := (admitted_eq_ok off size r).mp ha
      simp only [ha] at h
      cases h
      exact .inr (.inl ⟨r, rfl, rfl⟩)
  | .transaction (.write off size v), h =>
    simp only [runEvent, runTransaction] at h
    cases ha : admitted off size with
    | error e => simp [ha] at h
    | ok r =>
      obtain ⟨rfl, rfl⟩ := (admitted_eq_ok off size r).mp ha
      simp only [ha] at h
      by_cases hr : r = .cmd
      · subst hr
        exact .inr (.inr (.inr ⟨v, rfl, h⟩))
      · refine .inr (.inr (.inl ⟨r, v, hr, rfl, ?_⟩))
        cases r <;> first | contradiction | (cases h; rfl)

/-- What a step can do when it answers a next state: wait, or run the first pending event. -/
theorem step_cases (s t : State) (h : step s = .next t) :
    (s.pending = [] ∧ t = s) ∨
    ∃ e rest, s.pending = e :: rest ∧ runEvent e { s with pending := rest } = .next t := by
  unfold step runNext at h
  split at h
  · cases h; exact .inl ⟨‹_›, rfl⟩
  · exact .inr ⟨_, _, ‹_›, h⟩

/-- A step at a pending event is that event, run after it has been taken off. -/
@[simp] theorem step_pending (s : State) (e : Event) (rest : List Event) :
    step { s with pending := e :: rest } = runEvent e { s with pending := rest } := rfl

/-- A step of `withFetchWord` is the CMD write of the word. -/
theorem step_withFetchWord (s : State) (nbits w : Nat) :
    step (s.withFetchWord nbits w) = executeCommand (tableCommandWord nbits w) s := rfl

end Sys2Proof.Machine
end

