-- ==== Sys2Proof/WellFormed.lean ====
section
/-! DEFINITION. Which terms of the syntax the spec admits: every command, and the host-program lines
that 30_encoding.md R53 allows. -/

namespace Sys2Proof

/-- Every command is well-formed: a command has no operand field that could be out of range (R50). -/
def Instr.wellFormed : Instr → Bool
  | .decode | .stale | .humRaw | .tempRaw | .scaled | .humScaled | .tempScaled | .hum | .temp => true

/-- The registers a `wr` line may name (R53). -/
def Reg.writableInProgram : Reg → Bool
  | .frame | .raw | .min | .max | .scale => true
  | .cmd | .status | .meas | .result => false

/-- The registers for which a negative decimal value has a meaning (R53: "written to MIN or MAX"). -/
def Reg.takesNegative : Reg → Bool
  | .min | .max => true
  | .cmd | .status | .frame | .meas | .raw | .scale | .result => false

/-- A value that fits a 32-bit word as it stands. -/
def fitsUnsigned (v : Int) : Bool := decide (0 ≤ v) && decide (v < 2 ^ 32)

/-- A negative value that `twos_32` can encode (00_scope.md R7). -/
def fitsNegative (v : Int) : Bool := decide (-2 ^ 31 ≤ v) && decide (v < 0)

/-- The check of a host-program line (R53): the register may be named there, and the value fits 32 bits,
a negative one only for MIN and MAX (log 11). -/
def HostLine.wellFormed : HostLine → Bool
  | .wr r v => r.writableInProgram && (fitsUnsigned v || (r.takesNegative && fitsNegative v))
  | .rd _ => true
  | .mnemonic i => i.wellFormed
  | .cmd v => fitsUnsigned v
  | .reset => true

end Sys2Proof
end

