-- ==== Sys2Proof/Laws/PerInstr.lean ====
section
/-! SUPPORT. A law of the commands as syntax, one lemma per constructor. -/

namespace Sys2Proof.Laws.LegalWord

/-- Every command is well-formed and its word has RSV zero and an OP from 0x1 to 0x9 (30_encoding.md R45 to
R48). -/
def Statement (i : Instr) : Prop :=
  i.wellFormed = true ∧ rsvField (encode i) = 0 ∧ 0x1 ≤ (opField (encode i)).toNat ∧
    (opField (encode i)).toNat ≤ 0x9

theorem decode : Statement .decode := by unfold Statement; decide
theorem stale : Statement .stale := by unfold Statement; decide
theorem humRaw : Statement .humRaw := by unfold Statement; decide
theorem tempRaw : Statement .tempRaw := by unfold Statement; decide
theorem scaled : Statement .scaled := by unfold Statement; decide
theorem humScaled : Statement .humScaled := by unfold Statement; decide
theorem tempScaled : Statement .tempScaled := by unfold Statement; decide
theorem hum : Statement .hum := by unfold Statement; decide
theorem temp : Statement .temp := by unfold Statement; decide

end Sys2Proof.Laws.LegalWord
end

