-- ==== Sys2Proof/Laws/Run.lean ====
section
/-! SUPPORT. Runs of several steps: `Reaches` is the host's `run`, and what one step does to the pending
program. -/

namespace Sys2Proof.Safety

open Sys2Proof.Machine

theorem reaches_iff_run (k : Nat) (s t : State) :
    Reaches k s t ↔ Host.Core.run Sys2Proof.core k s = .next t := by
  induction k generalizing s with
  | zero =>
    show t = s ↔ Host.Outcome.next s = .next t
    exact ⟨fun h => h ▸ rfl, fun h => by cases h; rfl⟩
  | succ k ih =>
    simp only [Host.Core.run]
    show (∃ u, step s = .next u ∧ Reaches k u t) ↔ _
    cases hs : Sys2Proof.core.step s with
    | next u =>
      have hs : step s = .next u := hs
      rw [← ih u]
      exact ⟨fun ⟨u', e, h⟩ => by cases hs.symm.trans e; exact h, fun h => ⟨u, hs, h⟩⟩
    | fault r => exact nomatch r
    | refused r =>
      have hs : step s = .refused r := hs
      simp [hs]

/-- The first step of a run. -/
theorem Reaches.first {k : Nat} {s t : State} (h : Reaches (k + 1) s t) :
    ∃ u, step s = .next u ∧ Reaches k u t := h

/-- A run one step longer at its front. -/
theorem Reaches.cons {k : Nat} {s u t : State} (h : step s = .next u) (h' : Reaches k u t) :
    Reaches (k + 1) s t := ⟨u, h, h'⟩

end Sys2Proof.Safety
end

