-- ==== Sys2Proof/Tests/Slice0.lean ====
section
/-! SUPPORT. Small tests with values from 95_test_vectors.md and the worked examples of the rules, the smoke
test of WellFormed, and a witness for the hypotheses of every statement that has any. -/

namespace Sys2Proof.Tests

open Sys2Proof.Machine Sys2Proof.Safety

/-- The state after an outcome, if there is one. -/
def after : Host.Outcome State Fault Refusal → Option State
  | .next t => some t
  | .fault _ => none
  | .refused _ => none

/-- The refusal of an outcome, if there is one. -/
def refusalOf : Host.Outcome State Fault Refusal → Option Refusal
  | .next _ => none
  | .fault _ => none
  | .refused r => some r

/-- RESULT and the STATUS word after an outcome. -/
def seen (o : Host.Outcome State Fault Refusal) : Option (Word × Word) :=
  (after o).map fun t => (t.result, statusWord t)

/-- A block holding a Measurement, with a SCALE. -/
def measured (m sc : Word) : State := { State.reset with meas := m, mv := true, scale := sc }

/-- A block with the operands of SCALED. -/
def operands (r lo hi sc : Word) : State := { State.reset with raw := r, min := lo, max := hi, scale := sc }

/-- A block whose host issues one command word and nothing more. -/
def issuing (w : Word) (s : State) : State := { s with pending := [.transaction (.write 0x00 4 w)] }

/-- A block in the fault state, with cause 3 (95_test_vectors.md, P4). -/
def faultedBlock : State := { State.reset with min := 5, max := 5, faulted := true, fcause := 3 }

/-! ## Decoding: the words of 30_encoding.md R46, written out bit by bit -/

theorem test_decode_word : decode 0b00000000000000000000000000000001 = .ok .decode := by decide
theorem test_stale_word : decode 0b00000000000000000000000000000010 = .ok .stale := by decide
theorem test_humRaw_word : decode 0b00000000000000000000000000000011 = .ok .humRaw := by decide
theorem test_tempRaw_word : decode 0b00000000000000000000000000000100 = .ok .tempRaw := by decide
theorem test_scaled_word : decode 0b00000000000000000000000000000101 = .ok .scaled := by decide
theorem test_humScaled_word : decode 0b00000000000000000000000000000110 = .ok .humScaled := by decide
theorem test_tempScaled_word : decode 0b00000000000000000000000000000111 = .ok .tempScaled := by decide
theorem test_hum_word : decode 0b00000000000000000000000000001000 = .ok .hum := by decide
theorem test_temp_word : decode 0b00000000000000000000000000001001 = .ok .temp := by decide

/-- 95_test_vectors.md section 4: the words that are no command. -/
theorem test_illegal_words :
    decode 0x00000000 = .error .reservedOp ∧ decode 0x0000000A = .error .reservedOp ∧
    decode 0x0000000F = .error .reservedOp ∧ decode 0x00000010 = .error .reservedBits ∧
    decode 0x00000011 = .error .reservedBits ∧ decode 0x80000001 = .error .reservedBits ∧
    decode 0xFFFFFFFF = .error .reservedBits := by decide

theorem test_table_word : decodeTableWord 32 0x7 = some .tempScaled ∧ decodeTableWord 32 0xA = none ∧
    decodeTableWord 40 0x1 = none := by decide

/-! ## WellFormed refuses an ill-formed term of each check (30_encoding.md R53) -/

theorem test_wf_commands : Instr.wellFormed .decode = true ∧ HostLine.wellFormed (.mnemonic .temp) = true := by
  decide
theorem test_wf_read_only_register : HostLine.wellFormed (.wr .result 7) = false ∧
    HostLine.wellFormed (.wr .frame 7) = true := by decide
theorem test_wf_too_large : HostLine.wellFormed (.wr .frame (2 ^ 32)) = false ∧
    HostLine.wellFormed (.wr .frame (2 ^ 32 - 1)) = true := by decide
theorem test_wf_negative : HostLine.wellFormed (.wr .scale (-1)) = false ∧
    HostLine.wellFormed (.wr .min (-1)) = true := by decide
theorem test_wf_too_negative : HostLine.wellFormed (.wr .max (-2 ^ 31 - 1)) = false ∧
    HostLine.wellFormed (.wr .max (-2 ^ 31)) = true := by decide
theorem test_wf_command_value : HostLine.wellFormed (.cmd (-1)) = false ∧
    HostLine.wellFormed (.cmd (2 ^ 32)) = false ∧ HostLine.wellFormed (.cmd 0xFFFFFFFF) = true := by decide

/-! ## The commands, from 95_test_vectors.md sections 2 and 3 -/

/-- FRAME = 0xC0000000 is rejected, and an earlier Measurement stays (STATUS 0x5). -/
theorem test_decode_rejects : (after (exec .decode { measured 0x20008000 0 with frame := 0xC0000000 })).map
    (fun t => (t.meas, statusWord t)) = some (0x20008000, 0x00000005) := by decide

/-- A stale frame is accepted whole, unused bits included. -/
theorem test_decode_accepts : (after (exec .decode { measured 0x20008000 0 with frame := 0x7FFFFFFF })).map
    (fun t => (t.meas, statusWord t)) = some (0x7FFFFFFF, 0x00000004) := by decide

theorem test_stale_set : seen (exec .stale (measured 0x40000000 0)) = some (1, 0x00000004) := by decide
theorem test_stale_clear : seen (exec .stale (measured 0x20008000 0)) = some (0, 0x00000004) := by decide

theorem test_humRaw_no_flags : seen (exec .humRaw (measured 0x7FFFFFFF 0)) = some (16383, 0x00000004) := by decide
theorem test_humRaw_mixed : seen (exec .humRaw (measured 0x12345678 0)) = some (4660, 0x00000004) := by decide

theorem test_tempRaw_mixed : seen (exec .tempRaw (measured 0x12345678 0)) = some (5534, 0x00000004) := by decide
theorem test_tempRaw_unused : seen (exec .tempRaw (measured 0x00000003 0)) = some (0, 0x00000004) := by decide

/-- Source vector S5: rounding of a negative result. -/
theorem test_scaled_negative : seen (exec .scaled (operands 0 0xFFFFFFD8 125 1)) =
    some (0xFFFFFFD8, 0x00000000) := by decide

/-- The threshold scale plus one fails even at RAW = 0. -/
theorem test_scaled_static : seen (exec .scaled (operands 0 0 100 21474837)) = some (0, 0x00000002) := by decide

theorem test_humScaled_threshold : seen (exec .humScaled (measured 0x7FFFFFFF 21474836)) =
    some (2147483600, 0x00000004) := by decide
theorem test_humScaled_over : seen (exec .humScaled (measured 0x7FFFFFFF 21474837)) =
    some (0, 0x00000006) := by decide

theorem test_tempScaled_mixed : seen (exec .tempScaled (measured 0x20008000 100)) =
    some (4251, 0x00000004) := by decide
theorem test_tempScaled_bottom : seen (exec .tempScaled (measured 0x00000000 17179869)) =
    some (0xD70A3D78, 0x00000004) := by decide

/-- The first humidity step: raw 81 gives 0, raw 82 gives 1. -/
theorem test_hum_step : seen (exec .hum (measured 0x00510000 0)) = some (0, 0x00000004) ∧
    seen (exec .hum (measured 0x00520000 0)) = some (1, 0x00000004) := by decide
theorem test_hum_no_measurement : seen (exec .hum State.reset) = some (0, 0x00000028) := by decide

/-- tempRaw 49 gives -40 and tempRaw 50 gives -39 (R76). -/
theorem test_temp_step : seen (exec .temp (measured 0x000000C4 0)) = some (0xFFFFFFD8, 0x00000004) ∧
    seen (exec .temp (measured 0x000000C8 0)) = some (0xFFFFFFD9, 0x00000004) := by decide
theorem test_temp_mixed : seen (exec .temp (measured 0x12345678 0)) = some (16, 0x00000004) := by decide

/-! ## Dispatch, faults and the register interface, from 95_test_vectors.md section 4 and P4 -/

theorem test_illegal_command : seen (step (issuing 0x00000010 State.reset)) = some (0, 0x00000018) := by decide

/-- The faulted block ignores an illegal word too, and keeps the first cause. -/
theorem test_fault_is_kept : seen (step (issuing 0x00000010 faultedBlock)) = some (0, 0x00000038) := by decide

/-- Priority: max ≤ min before the raw range before the scale (R92). -/
theorem test_fault_priority : seen (step (issuing 5 (operands 16384 5 5 0))) = some (0, 0x00000038) ∧
    seen (step (issuing 5 (operands 16384 0 100 0))) = some (0, 0x00000048) ∧
    seen (step (issuing 5 (operands 0 0 100 0))) = some (0, 0x00000058) := by decide

/-- `wr STATUS, 0` and `wr RESULT, 7` have no effect. -/
theorem test_read_only_writes :
    after (step { measured 0 0 with pending := [.transaction (.write 0x04 4 0)] }) = some (measured 0 0) ∧
    after (step { measured 0 0 with pending := [.transaction (.write 0x20 4 7)] }) = some (measured 0 0) := by
  decide

/-- The host reads STATUS as one word, and CMD as 0. -/
theorem test_reads :
    (after (step { faultedBlock with pending := [.transaction (.read 0x04 4)] })).map State.returned =
      some [0x00000038] ∧
    (after (step { faultedBlock with pending := [.transaction (.read 0x00 4)] })).map State.returned =
      some [0x00000000] := by decide

/-- A 16-bit access, a misaligned one, one past the map, and a second host have no step. -/
theorem test_not_admitted :
    refusalOf (step { State.reset with pending := [.transaction (.read 0x08 2)] }) = some (.accessWidth 2) ∧
    refusalOf (step { State.reset with pending := [.transaction (.read 0x02 4)] }) = some (.misaligned 2) ∧
    refusalOf (step { State.reset with pending := [.transaction (.write 0x24 4 0)] }) = some (.unmapped 0x24) ∧
    refusalOf (step { State.reset with pending := [.secondHost (.read 0x00 4)] }) = some .secondHost := by
  decide

theorem test_reset_event : after (step { faultedBlock with pending := [.reset] }) = some State.reset := by decide

/-- The boot behaviour of R103 and R104: at the reset values DECODE gives a zero Measurement and SCALED
faults. -/
theorem test_boot : seen (step (State.reset.withFetchWord 32 1)) = some (0, 0x00000004) ∧
    seen (step (State.reset.withFetchWord 32 5)) = some (0, 0x00000038) := by decide

/-- The packing of P1's frame (95_test_vectors.md section 5). -/
theorem test_packing : packFrame 0x1C 0xCC 0x60 0xF8 = 0x1CCC60F8 := by decide

/-! ## Witnesses: concrete states and operands that meet the hypotheses of the statements -/

theorem witness_ResetRestoresRegistersAndAloneClearsFaults :
    ∃ t, step { faultedBlock with pending := [.reset] } = .next t ∧
      ({ faultedBlock with pending := [.reset] } : State).faulted = true ∧ t.faulted = false :=
  ⟨_, rfl, by decide⟩

theorem witness_IllegalCommandWordRaisesFault :
    State.reset.faulted = false ∧ (0x00000010 : Word).toNat / 16 ≠ 0 ∧ (0x00000000 : Word).toNat % 16 = 0 ∧
    0xA ≤ (0x0000000A : Word).toNat % 16 ∧ 0xA ≤ (0x0000000F : Word).toNat % 16 := by decide

theorem witness_StepRunsTheDecodedCommand :
    State.reset.faulted = false ∧ decode 0x00000001 = .ok .decode ∧ decode 0x00000009 = .ok .temp := by decide

theorem witness_HostProgramLinesStandForTransactions : State.reset.faulted = false := by decide

theorem witness_CommandEndsInExactlyOneOfFourOutcomes :
    ¬ AdmittedAccess 0x08 2 ∧ ¬ AdmittedAccess 0x02 4 ∧ ¬ AdmittedAccess 0x24 4 := by decide

theorem witness_FaultEntryWritesOnlyFaultedAndCause :
    ∃ t, step { State.reset with pending := [.transaction (.write 0x00 4 0x0A)] } = .next t ∧
      State.reset.faulted = false ∧ t.faulted = true := ⟨_, rfl, by decide⟩

theorem witness_FaultedBlockIgnoresCommandsOnly : faultedBlock.faulted = true := by decide

theorem witness_FaultIsStickyUntilReset :
    ∃ s t : State, s.faulted = true ∧ Reaches 2 s t ∧ Event.reset ∉ s.pending.take 2 :=
  ⟨{ faultedBlock with pending := [.transaction (.write 0x18 4 10), .transaction (.write 0x00 4 5), .reset] },
    _, rfl, ⟨_, rfl, _, rfl, rfl⟩, by decide⟩

theorem witness_FrameFieldsComeFromTheirBits : (0x00000003 : Word).toNat / 4 = (0x00000000 : Word).toNat / 4 := by
  decide

theorem witness_DecodeValidatesTheFrame :
    ({ State.reset with frame := 0x80000000 } : State).frame.getLsbD 31 = true ∧
    ({ State.reset with frame := 0x7FFFFFFF } : State).frame.getLsbD 31 = false := by decide

/-- The two clauses of StaleReturnsTheStaleBit, HumRawReturnsTheHumidityField and
TempRawReturnsTheTemperatureField. -/
theorem witness_measurement_present_and_absent :
    (measured 0x7FFFFFFF 0).mv = true ∧ State.reset.mv = false := by decide

theorem witness_AccessorsFaultWithoutAMeasurement :
    Instr.hum ≠ .decode ∧ Instr.hum ≠ .scaled ∧ State.reset.mv = false := by decide

theorem witness_StalenessIsFixedAtDecodeTime :
    ∃ s t : State, s.mv = true ∧ Reaches 1 s t ∧
      ∀ j < 1, ∀ u, Reaches j s u → u.pending.head? ≠ some .reset ∧
        (u.pending.head? = some (.transaction (.write 0x00 4 1)) →
          u.faulted = true ∨ u.frame.getLsbD 31 = true) := by
  refine ⟨issuing 1 { measured 0x40000000 0 with frame := 0x80000000 }, _, rfl, ⟨_, rfl, rfl⟩, ?_⟩
  intro j hj u hu
  obtain rfl : j = 0 := by omega
  obtain rfl := hu
  decide

theorem witness_OnlyDecodeAndResetTouchTheMeasurement :
    (∃ t, step (issuing 1 State.reset) = .next t ∧ t.mv ≠ (issuing 1 State.reset).mv) ∧
    (∃ t, step { measured 0x20008000 0 with pending := [.reset] } = .next t ∧
      t.meas ≠ (measured 0x20008000 0).meas) := ⟨⟨_, rfl, by decide⟩, ⟨_, rfl, by decide⟩⟩

theorem witness_UnusedFrameBitsReachNoResult :
    Instr.tempRaw ≠ .decode ∧ (0x00000003 : Word).toNat / 4 = (measured 0 0).meas.toNat / 4 := by decide

/-- ExtremesHaveClosedForms, RoundingIsToNearest, InterpolationIsMonotoneAndInRange, at the ends of the sample
range and at the largest scale of (0, 100). -/
theorem witness_scaling_laws :
    (0 : Int) < 100 ∧ (1 : Int) ≤ 21474836 ∧ (0 : Int) ≤ 0 ∧ (0 : Int) ≤ 16383 ∧ (16383 : Int) ≤ 16383 ∧
    32 ≤ 32 ∧ WorstCaseFits 32 0 100 21474836 := by decide

theorem witness_OverflowCheckIsStatic :
    ((0 : Int) < 100 ∧ (1 : Int) ≤ 21474837 ∧ (0 : Int) ≤ 0 ∧ (0 : Int) ≤ 16383 ∧ (16383 : Int) ≤ 16383) ∧
    8 ≤ 8 ∧ 8 ≤ 32 := by decide

theorem witness_ScaledChecksThenInterpolates :
    (operands 0 5 5 0).max.toInt ≤ (operands 0 5 5 0).min.toInt ∧
    ((operands 16384 4 5 0).min.toInt < (operands 16384 4 5 0).max.toInt ∧
      16383 < (operands 16384 4 5 0).raw.toNat) ∧
    ((operands 16383 4 5 0).min.toInt < (operands 16383 4 5 0).max.toInt ∧
      (operands 16383 4 5 0).raw.toNat ≤ 16383 ∧ (operands 16383 4 5 0).scale.toNat = 0) ∧
    ((operands 16383 0x80000000 0 2).min.toInt < (operands 16383 0x80000000 0 2).max.toInt ∧
      1 ≤ (operands 16383 0x80000000 0 2).scale.toNat ∧
      ((operands 16383 0x80000000 0 2).scale.toNat : Int) * (operands 16383 0x80000000 0 2).min.toInt < -2 ^ 31) ∧
    ((operands 0 0 0x7FFFFFFF 2).min.toInt < (operands 0 0 0x7FFFFFFF 2).max.toInt ∧
      1 ≤ (operands 0 0 0x7FFFFFFF 2).scale.toNat ∧
      2 ^ 31 - 1 < ((operands 0 0 0x7FFFFFFF 2).scale.toNat : Int) * (operands 0 0 0x7FFFFFFF 2).max.toInt) ∧
    ((operands 16383 0x80000000 0x7FFFFFFF 1).min.toInt < (operands 16383 0x80000000 0x7FFFFFFF 1).max.toInt ∧
      (operands 16383 0x80000000 0x7FFFFFFF 1).raw.toNat ≤ 16383 ∧
      1 ≤ (operands 16383 0x80000000 0x7FFFFFFF 1).scale.toNat ∧
      ((operands 16383 0x80000000 0x7FFFFFFF 1).scale.toNat : Int) *
        (operands 16383 0x80000000 0x7FFFFFFF 1).max.toInt ≤ 2 ^ 31 - 1 ∧
      -2 ^ 31 ≤ ((operands 16383 0x80000000 0x7FFFFFFF 1).scale.toNat : Int) *
        (operands 16383 0x80000000 0x7FFFFFFF 1).min.toInt) := by decide

theorem witness_ScalesAboveTwoToThe31NeverSucceed :
    ((operands 16383 0xFFFFFFFF 0 0x80000001).min.toInt < (operands 16383 0xFFFFFFFF 0 0x80000001).max.toInt ∧
      (operands 16383 0xFFFFFFFF 0 0x80000001).raw.toNat ≤ 16383 ∧
      2 ^ 31 < (operands 16383 0xFFFFFFFF 0 0x80000001).scale.toNat) ∧
    ((operands 0 0 1 0x80000000).min.toInt < (operands 0 0 1 0x80000000).max.toInt ∧
      (operands 0 0 1 0x80000000).raw.toNat ≤ 16383 ∧ (operands 0 0 1 0x80000000).scale.toNat = 2 ^ 31 ∧
      ¬ ((operands 0 0 1 0x80000000).min.toInt = -1 ∧ (operands 0 0 1 0x80000000).max.toInt = 0)) ∧
    ((operands 0 0xFFFFFFFF 0 0x80000000).min.toInt = -1 ∧ (operands 0 0xFFFFFFFF 0 0x80000000).max.toInt = 0 ∧
      (operands 0 0xFFFFFFFF 0 0x80000000).scale.toNat = 2 ^ 31 ∧
      (operands 0 0xFFFFFFFF 0 0x80000000).raw.toNat = 0) ∧
    (operands 16383 0xFFFFFFFF 0 0x80000000).raw.toNat = 16383 := by decide

theorem witness_HumScaledScalesTheHumidity :
    State.reset.mv = false ∧ ((measured 0 0).mv = true ∧ (measured 0 0).scale.toNat = 0) ∧
    2 ^ 31 - 1 < 100 * (measured 0 21474837).scale.toNat ∧
    (1 ≤ (measured 0 21474836).scale.toNat ∧ 100 * (measured 0 21474836).scale.toNat ≤ 2 ^ 31 - 1) := by decide

theorem witness_TempScaledScalesTheTemperature :
    State.reset.mv = false ∧ ((measured 0 0).mv = true ∧ (measured 0 0).scale.toNat = 0) ∧
    2 ^ 31 - 1 < 125 * (measured 0 17179870).scale.toNat ∧
    (1 ≤ (measured 0 17179869).scale.toNat ∧ 125 * (measured 0 17179869).scale.toNat ≤ 2 ^ 31 - 1) := by decide

/-- HumRoundsTheHumidity and TempRoundsTheTemperature. -/
theorem witness_rounded_accessors :
    State.reset.mv = false ∧ (measured 0x7FFFFFFF 1).mv = true ∧ (measured 0x7FFFFFFF 1).scale = 1 := by decide

/-- Each of the four clauses of FixedRangeResultsStayInRange at raw 0. -/
theorem witness_fixed_ranges_at_raw_0 :
    (measured 0x00000000 1).faulted = false ∧ (0x00000000 : Word).toNat / 2 ^ 16 % 2 ^ 14 = 0 ∧
    (0x00000000 : Word).toNat / 2 ^ 2 % 2 ^ 14 = 0 ∧
    ∀ i ∈ [Instr.humScaled, .tempScaled, .hum, .temp],
      ((after (exec i (measured 0x00000000 1))).map fun t => (t.faulted, t.err)) = some (false, 0) := by decide

/-- Each of the four clauses of FixedRangeResultsStayInRange at raw 16383. -/
theorem witness_fixed_ranges_at_raw_16383 :
    (measured 0x3FFFFFFC 1).faulted = false ∧ (0x3FFFFFFC : Word).toNat / 2 ^ 16 % 2 ^ 14 = 16383 ∧
    (0x3FFFFFFC : Word).toNat / 2 ^ 2 % 2 ^ 14 = 16383 ∧
    ∀ i ∈ [Instr.humScaled, .tempScaled, .hum, .temp],
      ((after (exec i (measured 0x3FFFFFFC 1))).map fun t => (t.faulted, t.err)) = some (false, 0) := by decide

theorem witness_FixedRangesNeedNoMinimumCheck :
    (1 : Int) ≤ 1 ∧ Fits 8 (interp 16383 0 100 1) ∧ Fits 8 (interp 16383 (-40) 125 1) ∧ 8 ≤ 8 ∧
    (measured 0 0).faulted = false ∧
    ((after (exec .hum (measured 0 0))).map fun t => t.faulted) = some false ∧
    ((after (exec .temp (measured 0 0))).map fun t => t.faulted) = some false := by decide

theorem witness_ScaleThresholds :
    (measured 0 0x01000000).faulted = false ∧ (measured 0 0x01000000).mv = true ∧
    (measured 0 0x01000000).scale.toNat = 2 ^ 24 ∧ (operands 16383 0 100 21474836).faulted = false ∧
    (operands 16383 0 100 21474836).min = 0 ∧ (operands 16383 0 100 21474836).max = 100 ∧
    (operands 16383 0 100 21474836).raw.toNat ≤ 16383 := by decide

/-- The clause of RegisterMapReadsAndWrites about reads, at the first and the last offset. -/
theorem witness_RegisterMapReadsAndWrites :
    ((0x00 = 0x00 ∧ (0 : Word) = 0)) ∧ (0x20 = 0x20 ∧ (0 : Word) = State.reset.result) := by decide

theorem witness_OnlyAdmittedTransactionsHaveAStep :
    ¬ ((4 : Nat) = 4 ∧ 0x24 % 4 = 0 ∧ 0x24 ≤ 0x20) ∧ ¬ ((2 : Nat) = 4 ∧ 0x08 % 4 = 0 ∧ 0x08 ≤ 0x20) ∧
    ((4 : Nat) = 4 ∧ 0x20 % 4 = 0 ∧ 0x20 ≤ 0x20) := by decide

theorem witness_BlockWaitsWhenTheHostIsSilent : State.reset.pending = [] := by decide

theorem witness_OnlyCommandWritesHaveSideEffects :
    (∃ t, step { State.reset with pending := [.transaction (.read 0x20 4), .transaction (.read 0x20 4)] } =
      .next t) ∧
    (∃ t, step { State.reset with pending := [.transaction (.write 0x1C 4 7), .transaction (.write 0x1C 4 7)] } =
      .next t ∧ (0x1C : Nat) ≠ 0 ∧ regOffset .raw ≠ 0x1C) := ⟨⟨_, rfl⟩, ⟨_, rfl, by decide⟩⟩

theorem witness_OneTransactionAtATimeInProgramOrder : ∃ t, step (issuing 1 State.reset) = .next t := ⟨_, rfl⟩

theorem witness_OperandRegistersHoldWhatTheHostLastWrote :
    ∃ t, Reaches 2 { State.reset with pending := [.transaction (.write 0x1C 4 7), .reset] } t :=
  ⟨_, _, rfl, _, rfl, rfl⟩

theorem witness_ResultChangesOnlyBySuccess :
    (∃ t, step (issuing 8 (measured 0x20008000 0)) = .next t ∧
      t.result ≠ (issuing 8 (measured 0x20008000 0)).result) ∧
    (∃ t, step { State.reset with result := 7, pending := [.reset] } = .next t ∧ t.result ≠ 7) :=
  ⟨⟨_, rfl, by decide⟩, ⟨_, rfl, by decide⟩⟩

theorem witness_AdmittedProgramsRunToTheirEnd :
    SafeProgram [.transaction (.write 0x00 4 0xFFFFFFFF), .transaction (.read 0x20 4), .reset] := by
  intro e he
  simp only [List.mem_cons, List.not_mem_nil, or_false] at he
  rcases he with rfl | rfl | rfl
  · show AdmittedAccess 0x00 4; decide
  · show AdmittedAccess 0x20 4; decide
  · trivial

/-- The last clause of ValueCommandsChangeOnlyResultAndStatus: a command whose RESULT changes. -/
theorem witness_ValueCommandsChangeOnlyResultAndStatus :
    Instr.hum ≠ .decode ∧
    ((after (exec .hum (measured 0x20008000 0))).map fun t => t.result) ≠ some (measured 0x20008000 0).result ∧
    Reg.meas ≠ .status ∧ Reg.meas ≠ .result := by decide

theorem witness_DecodeChangesOnlyTheMeasurementAndErr : Reg.result ≠ .status ∧ Reg.result ≠ .meas := by decide

/-- A block whose every field outside the operands differs from those of `measured` and `operands`: FRAME, RESULT,
ERR, FAULTED, FCAUSE, `pending` and `returned`. -/
def disturbed (s : State) : State :=
  { s with frame := 0xFFFFFFFF, result := 9, err := 2, faulted := true, fcause := 5, pending := [.reset],
           returned := [7] }

/-- One pair of states for each command that agrees on its operands and differs elsewhere. -/
theorem witness_CommandsReadOnlyTheirOperands :
    OperandsAgree .decode (measured 0x20008000 0) { operands 1 2 3 4 with result := 9, err := 2 } ∧
    OperandsAgree .scaled (operands 16383 0 100 1)
      { disturbed (operands 16383 0 100 1) with meas := 0x20008000, mv := true } ∧
    OperandsAgree .stale (measured 0x40000000 0) (disturbed (measured 0x7FFFFFFF 8)) ∧
    OperandsAgree .humRaw (measured 0x3FFF0000 0) (disturbed (measured 0x7FFFFFFF 8)) ∧
    OperandsAgree .tempRaw (measured 0x0000FFFC 0) (disturbed (measured 0x7FFFFFFF 8)) ∧
    OperandsAgree .humScaled (measured 0x3FFF0000 8) (disturbed (measured 0x7FFFFFFF 8)) ∧
    OperandsAgree .tempScaled (measured 0x0000FFFC 8) (disturbed (measured 0x7FFFFFFF 8)) ∧
    OperandsAgree .hum (measured 0x3FFF0000 0) (disturbed (measured 0x7FFFFFFF 8)) ∧
    OperandsAgree .temp (measured 0x0000FFFC 0) (disturbed (measured 0x7FFFFFFF 8)) := by
  simp only [OperandsAgree]
  decide

theorem witness_RepeatedCommandGivesTheSameOutcome : ∃ t, exec .scaled (operands 1 0 100 100) = .next t :=
  ⟨_, rfl⟩

theorem witness_EveryStepKeepsTheInvariant :
    ∃ t, RegInv (issuing 1 { State.reset with frame := 0x7FFFFFFF }) ∧
      step (issuing 1 { State.reset with frame := 0x7FFFFFFF }) = .next t := ⟨_, by decide, rfl⟩

end Sys2Proof.Tests
end

section
/-! The output bounds and the fixed constants (00_scope.md section 4). -/

namespace Sys2Proof.Machine

theorem outMin_eq (w : Nat) : outMin w = -2 ^ (w - 1) := rfl

theorem outMax_eq (w : Nat) : outMax w = 2 ^ (w - 1) - 1 := rfl

theorem fits_iff (w : Nat) (v : Int) : Fits w v ↔ outMin w ≤ v ∧ v ≤ outMax w := Iff.rfl

/-- The constants of R5's table; `HALF` is half of `RAW_MAX`, truncated. -/
theorem fixedConstants :
    Config.rawMax = 0x3FFF ∧ Config.half = 16383 / 2 ∧ Config.humidityRange = ⟨0, 100⟩ ∧
      Config.temperatureRange = ⟨-40, 125⟩ ∧ Config.roundedScale = 1 := by decide

/-- Settles O23: the bounds at `OUT_W` = 32 by evaluation, the constants by R5's table, and the bounds and the
fit at every width by their equations. -/
theorem outputBoundsAndConstants : Obligations.OutputBoundsAndConstants := by
  obtain ⟨hRaw, hHalf, hHum, hTemp, hScale⟩ := fixedConstants
  exact ⟨rfl, outMin_32, outMax_32, hRaw, hHalf, hHum, hTemp, hScale,
    fun w => ⟨outMin_eq w, outMax_eq w, fits_iff w⟩⟩

end Sys2Proof.Machine
end

section
/-! The reset values (10_state.md R28). -/

namespace Sys2Proof.Machine

/-- CMD reads 0 in every state (20_memory.md R36), STATUS packs its cleared fields, and each of the other registers
reads its reset field. -/
theorem readReg_reset (r : Reg) : readReg r State.reset = 0 := by
  have hStatus : statusWord State.reset = 0 := by decide
  cases r with
  | status => exact hStatus
  | cmd | frame | meas | raw | min | max | scale | result => rfl

/-- Settles O1: the fields by the definition of the reset state, the reads register by register. -/
theorem resetStateValues : Obligations.ResetStateValues :=
  ⟨rfl, rfl, rfl, rfl, rfl, rfl, rfl, rfl, rfl, rfl, rfl, readReg_reset⟩

end Sys2Proof.Machine
end

section
/-! Host transactions (20_memory.md R31 to R36): which have a step, and what each register answers. -/

namespace Sys2Proof.Machine

open Sys2Proof.Safety

/-! ### Which transactions have a step -/

/-- The accesses R33 to R35 admit are those at a register's offset, 32 bits wide. -/
theorem admittedAccess_iff (off size : Nat) : AdmittedAccess off size ↔ ∃ r, admitted off size = .ok r := by
  simp only [admitted_eq_ok, exists_and_left, exists_regOffset_iff]

theorem admitted_error_of_not_admittedAccess {off size : Nat} (h : ¬ AdmittedAccess off size) :
    ∃ e, admitted off size = .error e := by
  cases ha : admitted off size with
  | error e => exact ⟨e, rfl⟩
  | ok r => exact absurd ((admittedAccess_iff off size).mpr ⟨r, ha⟩) h

/-- R32: only a CMD write executes; a write of any other register is its store. -/
theorem hostWrite_of_ne_cmd {r : Reg} (h : r ≠ .cmd) (v : Word) (s : State) :
    hostWrite r v s = .next (storeReg r v s) := by
  cases r with
  | cmd => exact absurd rfl h
  | status | frame | meas | raw | min | max | scale | result => rfl

theorem executeCommand_next (w : Word) (s : State) : ∃ t, executeCommand w s = .next t := by
  obtain ⟨-, h⟩ | ⟨-, -, h⟩ | ⟨-, -, t, -, -, h, -⟩ := executeCommand_cases w s
  · exact ⟨_, h⟩
  · exact ⟨_, h⟩
  · exact ⟨t, h⟩

theorem hostWrite_next (r : Reg) (v : Word) (s : State) : ∃ t, hostWrite r v s = .next t := by
  by_cases h : r = .cmd
  · subst h
    exact executeCommand_next v s
  · exact ⟨_, hostWrite_of_ne_cmd h v s⟩

theorem runTransaction_next_of_admissible {x : Transaction} (h : Admissible (.transaction x)) (s : State) :
    ∃ t, runTransaction x s = .next t := by
  cases x with
  | write off size v =>
    obtain ⟨r, hr⟩ := (admittedAccess_iff off size).mp h
    simpa only [runTransaction, hr] using hostWrite_next r v s
  | read off size =>
    obtain ⟨r, hr⟩ := (admittedAccess_iff off size).mp h
    exact ⟨hostRead r s, by simp only [runTransaction, hr]⟩

theorem runTransaction_refused_of_not_admissible {x : Transaction} (h : ¬ Admissible (.transaction x))
    (s : State) : ∃ e, runTransaction x s = .refused e := by
  cases x with
  | write off size v =>
    obtain ⟨e, he⟩ := admitted_error_of_not_admittedAccess h
    exact ⟨e, by simp only [runTransaction, he]⟩
  | read off size =>
    obtain ⟨e, he⟩ := admitted_error_of_not_admittedAccess h
    exact ⟨e, by simp only [runTransaction, he]⟩

theorem runTransaction_next_iff_admissible (x : Transaction) (s : State) :
    (∃ t, runTransaction x s = .next t) ↔ Admissible (.transaction x) := by
  refine ⟨fun ⟨t, ht⟩ => ?_, fun h => runTransaction_next_of_admissible h s⟩
  by_contra h
  obtain ⟨e, he⟩ := runTransaction_refused_of_not_admissible h s
  cases ht.symm.trans he

/-- Settles O41: a step at a pending transaction is `runTransaction`, which answers a next state exactly for the
admissible transactions and refuses the others. -/
theorem onlyAdmittedTransactionsHaveAStep : Obligations.OnlyAdmittedTransactionsHaveAStep := by
  intro s rest off size v
  exact ⟨runTransaction_next_iff_admissible (.write off size v) _,
    runTransaction_next_iff_admissible (.read off size) _,
    fun h => ⟨runTransaction_refused_of_not_admissible (x := .write off size v) h _,
      runTransaction_refused_of_not_admissible (x := .read off size) h _⟩⟩

/-! ### What each register answers -/

/-- A concatenation as a number: the high part weighs 2 to the width of the low part. -/
theorem toNat_append_eq_mul_add {m n : Nat} (x : BitVec m) (y : BitVec n) :
    (x ++ y).toNat = x.toNat * 2 ^ n + y.toNat := by
  rw [BitVec.toNat_append, ← Nat.shiftLeft_add_eq_or_of_lt y.isLt, Nat.shiftLeft_eq]

/-- The STATUS word by its fields (10_state.md R19, R24). -/
theorem statusWord_toNat (s : State) : (statusWord s).toNat =
    s.err.toNat + 4 * s.mv.toNat + 8 * s.faulted.toNat + 16 * s.fcause.toNat := by
  simp only [statusWord, toNat_append_eq_mul_add, BitVec.toNat_ofBool, BitVec.ofNat_eq_ofNat,
    BitVec.toNat_zero]
  omega

/-- A pending read at a register's offset returns the register. -/
theorem step_read_regOffset (s : State) (rest : List Event) (r : Reg) :
    step { s with pending := .transaction (.read (regOffset r) 4) :: rest } =
      .next (hostRead r { s with pending := rest }) := by
  simp only [step_pending, runEvent, runTransaction, admitted_regOffset]

/-- A pending write at a register's offset is the host write of that register. -/
theorem step_write_regOffset (s : State) (rest : List Event) (r : Reg) (v : Word) :
    step { s with pending := .transaction (.write (regOffset r) 4 v) :: rest } =
      hostWrite r v { s with pending := rest } := by
  simp only [step_pending, runEvent, runTransaction, admitted_regOffset]

theorem step_write_regOffset_of_ne_cmd (s : State) (rest : List Event) {r : Reg} (h : r ≠ .cmd) (v : Word) :
    step { s with pending := .transaction (.write (regOffset r) 4 v) :: rest } =
      .next (storeReg r v { s with pending := rest }) := by
  rw [step_write_regOffset, hostWrite_of_ne_cmd h]

/-- Settles O40: the STATUS word by its fields, then the reads and the writes register by register. -/
theorem registerMapReadsAndWrites : Obligations.RegisterMapReadsAndWrites := by
  refine ⟨statusWord_toNat, ?reads, ?writes⟩
  case reads =>
    rintro s rest off v (⟨rfl, rfl⟩ | ⟨rfl, rfl⟩ | ⟨rfl, rfl⟩ | ⟨rfl, rfl⟩ | ⟨rfl, rfl⟩ | ⟨rfl, rfl⟩ |
      ⟨rfl, rfl⟩ | ⟨rfl, rfl⟩ | ⟨rfl, rfl⟩)
    · exact step_read_regOffset s rest .cmd
    · exact step_read_regOffset s rest .status
    · exact step_read_regOffset s rest .frame
    · exact step_read_regOffset s rest .meas
    · exact step_read_regOffset s rest .raw
    · exact step_read_regOffset s rest .min
    · exact step_read_regOffset s rest .max
    · exact step_read_regOffset s rest .scale
    · exact step_read_regOffset s rest .result
  case writes =>
    intro s rest v
    exact ⟨step_write_regOffset s rest .cmd v,
      step_write_regOffset_of_ne_cmd s rest (r := .status) (by decide) v,
      step_write_regOffset_of_ne_cmd s rest (r := .frame) (by decide) v,
      step_write_regOffset_of_ne_cmd s rest (r := .meas) (by decide) v,
      step_write_regOffset_of_ne_cmd s rest (r := .raw) (by decide) v,
      step_write_regOffset_of_ne_cmd s rest (r := .min) (by decide) v,
      step_write_regOffset_of_ne_cmd s rest (r := .max) (by decide) v,
      step_write_regOffset_of_ne_cmd s rest (r := .scale) (by decide) v,
      step_write_regOffset_of_ne_cmd s rest (r := .result) (by decide) v⟩

end Sys2Proof.Machine
end

section
/-! The opcode map and the nine legal command words (30_encoding.md R45 to R48). -/

namespace Sys2Proof

/-- A word is RSV above OP (R45). -/
theorem rsvField_append_opField (w : Word) : rsvField w ++ opField w = w := by
  rw [← BitVec.toNat_inj, Machine.toNat_append_eq_mul_add, rsvField_toNat, opField_toNat]
  exact Nat.div_add_mod' w.toNat 16

@[simp] theorem rsvField_encode (i : Instr) : rsvField (encode i) = 0 := by
  cases i <;> rfl

@[simp] theorem opField_encode (i : Instr) : opField (encode i) = i.op := by
  cases i <;> rfl

/-- The word of a command is known by its two fields (R45, R46). -/
theorem eq_encode_iff (w : Word) (i : Instr) : w = encode i ↔ rsvField w = 0 ∧ opField w = i.op := by
  constructor
  · rintro rfl
    exact ⟨rsvField_encode i, opField_encode i⟩
  · rintro ⟨hRsv, hOp⟩
    rw [← rsvField_append_opField w, hRsv, hOp, encode]

/-- `decodeOp` reads the column OP of the opcode map backwards (R46). -/
theorem decodeOp_eq_ok_iff (op : BitVec 4) (i : Instr) : decodeOp op = .ok i ↔ op = i.op := by
  constructor
  · intro h
    unfold decodeOp at h
    split at h <;> cases h <;> exact BitVec.eq_of_toNat_eq ‹_›
  · rintro rfl
    cases i <;> rfl

/-- A word decodes when RSV is zero and OP is in the map (R46, R47). -/
theorem decode_eq_ok_iff (w : Word) (i : Instr) :
    decode w = .ok i ↔ rsvField w = 0 ∧ opField w = i.op := by
  by_cases hRsv : rsvField w = 0
  · rw [decode, if_neg (not_not.mpr hRsv), decodeOp_eq_ok_iff, and_iff_right hRsv]
  · rw [decode, if_pos hRsv]
    exact ⟨nofun, fun h => absurd h.1 hRsv⟩

theorem decode_eq_ok_iff_eq_encode (w : Word) (i : Instr) : decode w = .ok i ↔ w = encode i :=
  (decode_eq_ok_iff w i).trans (eq_encode_iff w i).symm

/-- The commands fill the column OP from 1 to 9 without a gap (R46). -/
theorem exists_encode_toNat_eq {n : Nat} (hlo : 1 ≤ n) (hhi : n ≤ 9) : ∃ i, (encode i).toNat = n := by
  interval_cases n
  exacts [⟨.decode, rfl⟩, ⟨.stale, rfl⟩, ⟨.humRaw, rfl⟩, ⟨.tempRaw, rfl⟩, ⟨.scaled, rfl⟩, ⟨.humScaled, rfl⟩,
    ⟨.tempScaled, rfl⟩, ⟨.hum, rfl⟩, ⟨.temp, rfl⟩]

/-- The legal words are those from 1 to 9 (R46). -/
theorem exists_decode_eq_ok_iff (w : Word) :
    (∃ i, decode w = .ok i) ↔ 1 ≤ w.toNat ∧ w.toNat ≤ 9 := by
  constructor
  · rintro ⟨i, h⟩
    exact decode_ok_range w i h
  · rintro ⟨hlo, hhi⟩
    obtain ⟨i, hi⟩ := exists_encode_toNat_eq hlo hhi
    exact ⟨i, (decode_eq_ok_iff_eq_encode w i).mpr (BitVec.eq_of_toNat_eq hi.symm)⟩

/-- Settles O3: the nine words by evaluation; decoding and encoding agree because both say that RSV is zero and OP
is the command's; the legal words by the range of OP. -/
theorem decodeAndEncodeAgreeOnEveryWord : Obligations.DecodeAndEncodeAgreeOnEveryWord :=
  ⟨⟨rfl, rfl, rfl, rfl, rfl, rfl, rfl, rfl, rfl⟩, decode_eq_ok_iff_eq_encode, exists_decode_eq_ok_iff⟩

end Sys2Proof
end

section
/-! Illegal command words (30_encoding.md R47, R48). -/

namespace Sys2Proof.Machine

/-- A word outside 1 to 9 enters the fault state. -/
theorem executeCommand_of_not_legal {w : Word} {s : State} (hf : s.faulted = false)
    (hw : ¬ (1 ≤ w.toNat ∧ w.toNat ≤ 9)) :
    executeCommand w s = .next (raiseFault .illegalCommand s) := by
  obtain ⟨hFaulted, -⟩ | ⟨-, -, h⟩ | ⟨-, i, -, hd, -⟩ := executeCommand_cases w s
  · simp [hf] at hFaulted
  · exact h
  · exact absurd (decode_ok_range w i hd) hw

/-- Settles O5: the words R47 and R48 name lie outside 1 to 9, and the CMD write of such a word raises the
fault. -/
theorem illegalCommandWordRaisesFault : Obligations.IllegalCommandWordRaisesFault := by
  intro s rest w hf hIllegal
  have hw : ¬ (1 ≤ w.toNat ∧ w.toNat ≤ 9) := by omega
  calc step { s with pending := .transaction (.write (regOffset .cmd) 4 w) :: rest }
      = executeCommand w { s with pending := rest } := step_write_regOffset s rest .cmd w
    _ = .next (raiseFault .illegalCommand { s with pending := rest }) := executeCommand_of_not_legal hf hw

end Sys2Proof.Machine
end

section
/-! The Measurement (40_frame_decoder.md R58 to R63): how the commands read it, and what can replace it along a
run. -/

namespace Sys2Proof.Machine

open Sys2Proof.Safety

/-! ### The commands that read a Measurement -/

/-- R61: every command but DECODE and SCALED first requires a Measurement. -/
theorem exec_eq_requireMeasurement {i : Instr} (hDecode : i ≠ .decode) (hScaled : i ≠ .scaled) (s : State) :
    ∃ rest, exec i s = .next (requireMeasurement rest s) := by
  cases i with
  | decode => exact absurd rfl hDecode
  | scaled => exact absurd rfl hScaled
  | stale | humRaw | tempRaw | humScaled | tempScaled | hum | temp => exact ⟨_, rfl⟩

theorem exec_of_no_measurement {i : Instr} (hDecode : i ≠ .decode) (hScaled : i ≠ .scaled) {s : State}
    (hmv : s.mv = false) : exec i s = .next (raiseFault .noMeasurement s) := by
  obtain ⟨rest, h⟩ := exec_eq_requireMeasurement hDecode hScaled s
  rw [h, requireMeasurement_false rest s hmv]

theorem stale_toNat (w : Word) : (stale w).toNat = w.toNat / 2 ^ 30 % 2 := Nat.toNat_testBit w.toNat 30

/-- How STALE, HUMRAW and TEMPRAW succeed: the field `x` of MEAS becomes the result word. -/
theorem requireMeasurement_field {n m : Nat} {x : BitVec n} (hx : x.toNat = m) {s : State} (hmv : s.mv = true) :
    requireMeasurement (completeOk (x.setWidth 32)) s = completeOk (BitVec.ofNat 32 m) s := by
  rw [requireMeasurement_true _ s hmv, ← BitVec.ofNat_toNat, hx]

theorem exec_stale_of_measurement {s : State} (hmv : s.mv = true) :
    exec .stale s = .next (completeOk (BitVec.ofNat 32 (s.meas.toNat / 2 ^ 30 % 2)) s) :=
  congrArg Host.Outcome.next
    (requireMeasurement_field ((BitVec.toNat_ofBool _).trans (stale_toNat s.meas)) hmv)

theorem exec_humRaw_of_measurement {s : State} (hmv : s.mv = true) :
    exec .humRaw s = .next (completeOk (BitVec.ofNat 32 (s.meas.toNat / 2 ^ 16 % 2 ^ 14)) s) :=
  congrArg Host.Outcome.next (requireMeasurement_field (humRaw_toNat s.meas) hmv)

theorem exec_tempRaw_of_measurement {s : State} (hmv : s.mv = true) :
    exec .tempRaw s = .next (completeOk (BitVec.ofNat 32 (s.meas.toNat / 2 ^ 2 % 2 ^ 14)) s) :=
  congrArg Host.Outcome.next (requireMeasurement_field (tempRaw_toNat s.meas) hmv)

/-! ### What can replace the Measurement -/

/-- The current Measurement, MEAS and MV, is the same in both states. -/
def SameMeasurement (s t : State) : Prop := t.meas = s.meas ∧ t.mv = s.mv

theorem SameMeasurement.trans {s t u : State} (hst : SameMeasurement s t) (htu : SameMeasurement t u) :
    SameMeasurement s u :=
  ⟨htu.1.trans hst.1, htu.2.trans hst.2⟩

/-- A command that replaces the Measurement is a DECODE that accepts its frame. -/
theorem Ends.measurement {i : Instr} {s t : State} (h : Ends i s t) :
    SameMeasurement s t ∨ (i = .decode ∧ s.frame.getLsbD 31 = false ∧ t = acceptFrame s) := by
  cases h with
  | success v _ => exact .inl ⟨rfl, rfl⟩
  | accepted hDecode hFrame => exact .inr ⟨hDecode, hFrame, rfl⟩
  | error e => exact .inl ⟨rfl, rfl⟩
  | fault c _ _ => exact .inl ⟨rfl, rfl⟩

theorem executeCommand_measurement {w : Word} {s t : State} (h : executeCommand w s = .next t) :
    SameMeasurement s t ∨
      (w = 1 ∧ s.faulted = false ∧ s.frame.getLsbD 31 = false ∧ t = acceptFrame s) := by
  obtain ⟨-, he⟩ | ⟨-, -, he⟩ | ⟨hf, i, u, hd, -, he, hEnds⟩ := executeCommand_cases w s <;>
    cases h.symm.trans he
  · exact .inl ⟨rfl, rfl⟩
  · exact .inl ⟨rfl, rfl⟩
  · refine hEnds.measurement.imp_right ?_
    rintro ⟨rfl, hFrame, rfl⟩
    exact ⟨(decode_eq_ok_iff_eq_encode w .decode).mp hd, hf, hFrame, rfl⟩

/-- R63: an event that replaces the Measurement is a reset or the CMD write of an accepting DECODE. -/
theorem runEvent_measurement {e : Event} {s t : State} (h : runEvent e s = .next t) :
    SameMeasurement s t ∨ (e = .reset ∧ t = resetBlock s) ∨
      (e = .transaction (.write 0x00 4 1) ∧ s.faulted = false ∧ s.frame.getLsbD 31 = false ∧
        t = acceptFrame s) := by
  obtain ⟨rfl, rfl⟩ | ⟨r, -, rfl⟩ | ⟨r, v, -, -, rfl⟩ | ⟨w, rfl, hw⟩ := runEvent_cases e s t h
  · exact .inr (.inl ⟨rfl, rfl⟩)
  · exact .inl ⟨rfl, rfl⟩
  · exact .inl ⟨storeReg_meas r v s, storeReg_mv r v s⟩
  · refine (executeCommand_measurement hw).imp_right ?_
    rintro ⟨rfl, hDecode⟩
    exact .inr ⟨rfl, hDecode⟩

/-- The next event is one the run of R62 excludes: a reset, or a DECODE that will succeed. -/
def ReplacesMeasurement (s : State) : Prop :=
  s.pending.head? = some .reset ∨
    (s.pending.head? = some (.transaction (.write 0x00 4 1)) ∧ s.faulted = false ∧ s.frame.getLsbD 31 = false)

theorem not_replacesMeasurement {s : State} (hReset : s.pending.head? ≠ some .reset)
    (hDecode : s.pending.head? = some (.transaction (.write 0x00 4 1)) →
      s.faulted = true ∨ s.frame.getLsbD 31 = true) : ¬ ReplacesMeasurement s := by
  rintro (h | ⟨h, hf, hFrame⟩)
  · exact hReset h
  · have hFails := hDecode h
    rw [hf, hFrame] at hFails
    exact absurd hFails (by decide)

theorem step_sameMeasurement {s t : State} (h : step s = .next t) (hs : ¬ ReplacesMeasurement s) :
    SameMeasurement s t := by
  obtain ⟨-, rfl⟩ | ⟨e, rest, hp, he⟩ := step_cases s t h
  · exact ⟨rfl, rfl⟩
  · obtain hSame | ⟨rfl, -⟩ | ⟨rfl, hf, hFrame, -⟩ := runEvent_measurement he
    · exact hSame
    · exact absurd (.inl (by rw [hp]; rfl)) hs
    · exact absurd (.inr ⟨by rw [hp]; rfl, hf, hFrame⟩) hs

/-- The Measurement stays through a run none of whose steps replaces it. -/
theorem reaches_sameMeasurement {k : Nat} {s t : State} (h : Reaches k s t)
    (hRun : ∀ j < k, ∀ u, Reaches j s u → ¬ ReplacesMeasurement u) : SameMeasurement s t := by
  induction k generalizing s with
  | zero => exact h ▸ ⟨rfl, rfl⟩
  | succ k ih =>
    obtain ⟨u, hsu, hut⟩ := h.first
    have hFirst : SameMeasurement s u := step_sameMeasurement hsu (hRun 0 k.succ_pos s rfl)
    have hRest : SameMeasurement u t :=
      ih hut fun j hj v hv => hRun (j + 1) (Nat.succ_lt_succ hj) v (.cons hsu hv)
    exact hFirst.trans hRest

/-- Settles O20: by induction over the run the Measurement is the same at its end, and STALE reads nothing else. -/
theorem stalenessIsFixedAtDecodeTime : Obligations.StalenessIsFixedAtDecodeTime := by
  intro k s t hmv hReach hRun
  obtain ⟨hMeas, hMv⟩ : SameMeasurement s t := reaches_sameMeasurement hReach fun j hj u hu =>
    (hRun j hj u hu).elim not_replacesMeasurement
  refine ⟨hMeas, _, exec_stale_of_measurement hmv, ?_⟩
  rw [← hMeas]
  exact exec_stale_of_measurement (hMv.trans hmv)

end Sys2Proof.Machine
end

section
/-! The fields of a frame (40_frame_decoder.md R55, R56) as numbers, from its word and from its bytes. -/

namespace Sys2Proof.Machine

theorem boolToNat_injective : Function.Injective Bool.toNat := Function.LeftInverse.injective Bool.ofNat_toNat

theorem cmode_toNat (w : Word) : (cmode w).toNat = w.toNat / 2 ^ 31 % 2 := Nat.toNat_testBit w.toNat 31

/-- Byte 0 is the most significant (10_state.md R13). -/
theorem packFrame_toNat (b0 b1 b2 b3 : Byte) : (packFrame b0 b1 b2 b3).toNat =
    b0.toNat * 2 ^ 24 + b1.toNat * 2 ^ 16 + b2.toNat * 2 ^ 8 + b3.toNat := by
  simp only [packFrame, toNat_append_eq_mul_add]
  omega

/-- R55, R56: the four fields in terms of the bytes. -/
theorem frameFields_packFrame (b0 b1 b2 b3 : Byte) :
    cmode (packFrame b0 b1 b2 b3) = b0.getLsbD 7 ∧ stale (packFrame b0 b1 b2 b3) = b0.getLsbD 6 ∧
    (humRaw (packFrame b0 b1 b2 b3)).toNat = b0.toNat % 64 * 256 + b1.toNat ∧
    (tempRaw (packFrame b0 b1 b2 b3)).toNat = b2.toNat * 64 + b3.toNat / 4 := by
  have hWord := packFrame_toNat b0 b1 b2 b3
  have hb0 := b0.isLt
  have hb1 := b1.isLt
  have hb2 := b2.isLt
  have hb3 := b3.isLt
  have hBit (i : Nat) : (b0.getLsbD i).toNat = b0.toNat / 2 ^ i % 2 := Nat.toNat_testBit b0.toNat i
  refine ⟨boolToNat_injective ?_, boolToNat_injective ?_, ?_, ?_⟩
  · rw [cmode_toNat, hBit]; omega
  · rw [stale_toNat, hBit]; omega
  · rw [humRaw_toNat]; omega
  · rw [tempRaw_toNat]; omega

/-- R56: bits 1:0 of a frame reach none of its fields. -/
theorem frameFields_eq_of_div_four_eq {w w' : Word} (h : w.toNat / 4 = w'.toNat / 4) :
    cmode w = cmode w' ∧ stale w = stale w' ∧ humRaw w = humRaw w' ∧ tempRaw w = tempRaw w' := by
  refine ⟨boolToNat_injective ?_, boolToNat_injective ?_, BitVec.eq_of_toNat_eq ?_, BitVec.eq_of_toNat_eq ?_⟩
  · rw [cmode_toNat, cmode_toNat]; omega
  · rw [stale_toNat, stale_toNat]; omega
  · rw [humRaw_toNat, humRaw_toNat]; omega
  · rw [tempRaw_toNat, tempRaw_toNat, h]

/-- Settles O14: each field is a quotient of the word, and the word is a sum of its weighted bytes. -/
theorem frameFieldsComeFromTheirBits : Obligations.FrameFieldsComeFromTheirBits :=
  ⟨frameFields_packFrame,
    fun w => ⟨rfl, rfl, humRaw_toNat w, tempRaw_toNat w, Nat.le_of_lt_succ (humRaw w).isLt,
      Nat.le_of_lt_succ (tempRaw w).isLt⟩,
    fun _ _ => frameFields_eq_of_div_four_eq⟩

end Sys2Proof.Machine
end

section
/-! The commands of the frame decoder (40_frame_decoder.md R57 to R61). -/

namespace Sys2Proof.Machine

/-- Settles O16: its word by evaluation, its result by the reading of STALE, its fault by R61. -/
theorem staleReturnsTheStaleBit : Obligations.StaleReturnsTheStaleBit :=
  ⟨rfl, fun _ => exec_stale_of_measurement, fun _ => exec_of_no_measurement (by decide) (by decide)⟩

/-- Settles O17: its word by evaluation, its result by the reading of HUMRAW, its fault by R61. -/
theorem humRawReturnsTheHumidityField : Obligations.HumRawReturnsTheHumidityField :=
  ⟨rfl, fun _ => exec_humRaw_of_measurement, fun _ => exec_of_no_measurement (by decide) (by decide)⟩

/-- Settles O18: its word by evaluation, its result by the reading of TEMPRAW, its fault by R61. -/
theorem tempRawReturnsTheTemperatureField : Obligations.TempRawReturnsTheTemperatureField :=
  ⟨rfl, fun _ => exec_tempRaw_of_measurement, fun _ => exec_of_no_measurement (by decide) (by decide)⟩

theorem exec_decode_of_cmode {s : State} (h : s.frame.getLsbD 31 = true) :
    exec .decode s = .next (completeErr .cmode s) := by
  rw [exec, execDecode, cmode, if_pos h]

theorem exec_decode_of_not_cmode {s : State} (h : s.frame.getLsbD 31 = false) :
    exec .decode s = .next (acceptFrame s) := by
  rw [exec, execDecode, cmode, if_neg (Bool.not_eq_true _ ▸ h)]

/-- Settles O15: its word by evaluation, its two endings by the command-mode flag of FRAME. -/
theorem decodeValidatesTheFrame : Obligations.DecodeValidatesTheFrame :=
  ⟨rfl, fun _ => exec_decode_of_cmode, fun _ => exec_decode_of_not_cmode⟩

/-- Settles O19: each of the seven commands begins with the requirement of R61, which raises the fault. -/
theorem accessorsFaultWithoutAMeasurement : Obligations.AccessorsFaultWithoutAMeasurement :=
  fun _ _ hDecode hScaled hmv => exec_of_no_measurement hDecode hScaled hmv

end Sys2Proof.Machine
end

section
/-! The interpolation (41_scaling_engine.md R65, R68 to R70, R82, R83): its rounding, its ends, its monotony and
its range. -/

namespace Sys2Proof.Machine

/-- R83: the one rounding division is a floor division of the scaled numerator. -/
theorem interp_eq_fdiv (r lo hi sc : Int) :
    interp r lo hi sc = sc * lo + Int.fdiv (sc * r * (hi - lo) + 8191) 16383 :=
  congrArg (sc * lo + ·) (floorDiv_eq_fdiv _ 16383 (by decide))

/-- Settles O39: the floor form of the interpolation, and R83's example by evaluation. -/
theorem scaleMultipliesBeforeRounding : Obligations.ScaleMultipliesBeforeRounding :=
  ⟨interp_eq_fdiv, by decide, by decide⟩

/-- R82: the offset is a multiple of the divisor, so it may stand inside a floor division. -/
theorem interp_eq_combined (r lo hi sc : Int) :
    interp r lo hi sc = Int.fdiv (sc * (lo * 16383 + r * (hi - lo)) + 8191) 16383 := by
  have hNumerator : sc * (lo * 16383 + r * (hi - lo)) + 8191
      = (sc * r * (hi - lo) + 8191) + sc * lo * 16383 := by ring
  calc interp r lo hi sc
      = (sc * r * (hi - lo) + 8191) / 16383 + sc * lo := by rw [interp_eq, add_comm]
    _ = ((sc * r * (hi - lo) + 8191) + sc * lo * 16383) / 16383 :=
      (Int.add_mul_ediv_right _ _ (by decide)).symm
    _ = Int.fdiv (sc * (lo * 16383 + r * (hi - lo)) + 8191) 16383 := by
      rw [hNumerator, Int.fdiv_eq_ediv_of_nonneg _ (by decide)]

/-- Settles O38: the combined formula under floor division, and R82's counterexample to truncation by
evaluation. -/
theorem combinedFormulaNeedsFloorDivision : Obligations.CombinedFormulaNeedsFloorDivision :=
  ⟨interp_eq_combined, by decide, by decide⟩

/-- Settles O25: adding 8191 before a floor division by 16383 leaves a remainder of at most 8191 either way. -/
theorem roundingIsToNearest : Obligations.RoundingIsToNearest := by
  intro r lo hi sc _ _ _
  rw [interp_eq]
  generalize sc * r * (hi - lo) = n
  have hOff : |16383 * (sc * lo + (n + 8191) / 16383 - sc * lo) - n| ≤ 8191 :=
    abs_le.mpr ⟨by omega, by omega⟩
  omega

theorem interp_raw_zero (lo hi sc : Int) : interp 0 lo hi sc = sc * lo := by
  simp [interp_eq]

theorem interp_raw_max (lo hi sc : Int) : interp 16383 lo hi sc = sc * hi := by
  have hNumerator : sc * 16383 * (hi - lo) = 16383 * (sc * hi - sc * lo) := by ring
  rw [interp_eq, hNumerator]
  omega

theorem interp_mono {lo hi sc r r' : Int} (hRange : lo < hi) (hScale : 1 ≤ sc) (h : r ≤ r') :
    interp r lo hi sc ≤ interp r' lo hi sc := by
  have hNumerator : sc * r * (hi - lo) ≤ sc * r' * (hi - lo) :=
    mul_le_mul_of_nonneg_right (mul_le_mul_of_nonneg_left h (by omega)) (by omega)
  rw [interp_eq, interp_eq]
  omega

theorem scale_mul_lo_le_interp {r lo hi sc : Int} (hRange : lo < hi) (hScale : 1 ≤ sc) (hr : 0 ≤ r) :
    sc * lo ≤ interp r lo hi sc :=
  interp_raw_zero lo hi sc ▸ interp_mono hRange hScale hr

theorem interp_le_scale_mul_hi {r lo hi sc : Int} (hRange : lo < hi) (hScale : 1 ≤ sc) (hr : r ≤ 16383) :
    interp r lo hi sc ≤ sc * hi :=
  interp_raw_max lo hi sc ▸ interp_mono hRange hScale hr

/-- R68: the two bounds that are left of the worst-case check; the other two follow from `lo < hi`. -/
theorem worstCaseFits_iff {lo hi sc : Int} (hRange : lo < hi) (hScale : 1 ≤ sc) (w : Nat) :
    WorstCaseFits w lo hi sc ↔ outMin w ≤ sc * lo ∧ sc * hi ≤ outMax w := by
  have hOrder : sc * lo ≤ sc * hi := mul_le_mul_of_nonneg_left hRange.le (by omega)
  have hMax : interp Config.rawMax lo hi sc = sc * hi := interp_raw_max lo hi sc
  rw [WorstCaseFits, hMax, interp_raw_zero]
  exact ⟨fun ⟨hTop, hBot⟩ => ⟨hBot.1, hTop.2⟩,
    fun ⟨hLo, hHi⟩ => ⟨⟨hLo.trans hOrder, hHi⟩, hLo, hOrder.trans hHi⟩⟩

/-- Settles O24: the two extremes, and the check with them written in. -/
theorem extremesHaveClosedForms : Obligations.ExtremesHaveClosedForms :=
  fun lo hi sc hRange hScale =>
    ⟨interp_raw_zero lo hi sc, interp_raw_max lo hi sc, worstCaseFits_iff hRange hScale⟩

theorem outMin_eq_neg_outMax (w : Nat) : outMin w = -outMax w - 1 := by
  rw [outMin_eq, outMax_eq]; ring

theorem outMax_mono {w w' : Nat} (h : w ≤ w') : outMax w ≤ outMax w' := by
  have hPow : (2 : Int) ^ (w - 1) ≤ 2 ^ (w' - 1) := pow_le_pow_right₀ (by decide) (Nat.sub_le_sub_right h 1)
  rw [outMax_eq, outMax_eq]
  omega

/-- Between two extremes that fit, every interpolated value fits. -/
theorem fits_interp {r lo hi sc : Int} (hRange : lo < hi) (hScale : 1 ≤ sc) (hr : 0 ≤ r) (hr' : r ≤ 16383)
    {w : Nat} (hFits : WorstCaseFits w lo hi sc) : Fits w (interp r lo hi sc) := by
  obtain ⟨hLo, hHi⟩ := (worstCaseFits_iff hRange hScale w).mp hFits
  exact ⟨hLo.trans (scale_mul_lo_le_interp hRange hScale hr), (interp_le_scale_mul_hi hRange hScale hr').trans hHi⟩

theorem twos32_toInt_of_fits {w : Nat} (hw : w ≤ 32) {v : Int} (h : Fits w v) : (twos32 v).toInt = v := by
  obtain ⟨hLo, hHi⟩ := h
  have hWidth : outMax w ≤ 2147483647 := outMax_32 ▸ outMax_mono hw
  have hMin := outMin_eq_neg_outMax w
  exact twos32_toInt v (by omega) (by omega)

/-- Settles O26: the numerator is monotone in the sample, the ends are the extremes, and a value that fits at most 32
bits is recovered from its word. -/
theorem interpolationIsMonotoneAndInRange : Obligations.InterpolationIsMonotoneAndInRange := by
  intro lo hi sc hRange hScale
  refine ⟨fun r r' => interp_mono hRange hScale, fun r hr hr' =>
    ⟨scale_mul_lo_le_interp hRange hScale hr, interp_le_scale_mul_hi hRange hScale hr', fun w hw hFits => ?_⟩⟩
  have hValue : Fits w (interp r lo hi sc) := fits_interp hRange hScale hr hr' hFits
  exact ⟨hValue, twos32_toInt_of_fits hw hValue⟩

end Sys2Proof.Machine
end

section
/-! The scaling core (41_scaling_engine.md R66, R71, R78): one lemma per way it ends, and when it succeeds. -/

namespace Sys2Proof.Machine

section
variable {w : Nat} {r lo hi sc : Int} {s : State}

theorem scaleCore_of_not_lt (hRange : ¬ lo < hi) :
    scaleCore w r lo hi sc s = raiseFault .maxNotGreaterThanMin s :=
  if_pos hRange

theorem scaleCore_of_raw_out_of_range (hRange : lo < hi) (hRaw : ¬ (0 ≤ r ∧ r ≤ 16383)) :
    scaleCore w r lo hi sc s = raiseFault .rawOutOfRange s := by
  unfold scaleCore Config.rawMax
  rw [if_neg (not_not_intro hRange), if_pos hRaw]

theorem scaleCore_of_scale_not_positive (hRange : lo < hi) (hRaw : 0 ≤ r ∧ r ≤ 16383) (hScale : ¬ 1 ≤ sc) :
    scaleCore w r lo hi sc s = raiseFault .scaleNotPositive s := by
  unfold scaleCore Config.rawMax
  rw [if_neg (not_not_intro hRange), if_neg (not_not_intro hRaw), if_pos hScale]

theorem scaleCore_of_not_fits (hRange : lo < hi) (hRaw : 0 ≤ r ∧ r ≤ 16383) (hScale : 1 ≤ sc)
    (hFits : ¬ WorstCaseFits w lo hi sc) : scaleCore w r lo hi sc s = completeErr .scaleOob s := by
  unfold scaleCore Config.rawMax
  rw [if_neg (not_not_intro hRange), if_neg (not_not_intro hRaw), if_neg (not_not_intro hScale)]
  exact if_pos hFits

theorem scaleCore_of_fits (hRange : lo < hi) (hRaw : 0 ≤ r ∧ r ≤ 16383) (hScale : 1 ≤ sc)
    (hFits : WorstCaseFits w lo hi sc) :
    scaleCore w r lo hi sc s = completeOk (twos32 (interp r lo hi sc)) s := by
  unfold scaleCore Config.rawMax
  rw [if_neg (not_not_intro hRange), if_neg (not_not_intro hRaw), if_neg (not_not_intro hScale)]
  exact if_neg (not_not_intro hFits)

/-- The core succeeds exactly when the contract checks and the overflow check all pass. -/
theorem scaleCore_succeeds_iff (hf : s.faulted = false) :
    (scaleCore w r lo hi sc s).faulted = false ∧ (scaleCore w r lo hi sc s).err = 0 ↔
      lo < hi ∧ (0 ≤ r ∧ r ≤ 16383) ∧ 1 ≤ sc ∧ WorstCaseFits w lo hi sc := by
  obtain ⟨h, e⟩ | ⟨-, h, e⟩ | ⟨-, -, h, e⟩ | ⟨-, -, -, h, e⟩ | ⟨h1, h2, h3, h4, e⟩ :=
    scaleCore_cases w r lo hi sc s <;> rw [e]
  · exact ⟨fun ⟨hFaulted, _⟩ => by simp at hFaulted, fun ⟨hRange, _⟩ => absurd hRange h⟩
  · exact ⟨fun ⟨hFaulted, _⟩ => by simp at hFaulted, fun ⟨_, hRaw, _⟩ => absurd hRaw h⟩
  · exact ⟨fun ⟨hFaulted, _⟩ => by simp at hFaulted, fun ⟨_, _, hScale, _⟩ => absurd hScale h⟩
  · exact ⟨fun ⟨_, hErr⟩ => by simp [errorCode] at hErr, fun ⟨_, _, _, hFits⟩ => absurd hFits h⟩
  · exact ⟨fun _ => ⟨h1, h2, h3, h4⟩, fun _ => ⟨hf, rfl⟩⟩

/-! ### Ranges whose maximum dominates -/

/-- A range whose minimum is not below the negated maximum, as both fixed ranges are. -/
structure MaxDominates (lo hi : Int) : Prop where
  lt : lo < hi
  neg_hi_le : -hi ≤ lo

theorem maxDominates_humidity : MaxDominates 0 100 := ⟨by decide, by decide⟩

theorem maxDominates_temperature : MaxDominates (-40) 125 := ⟨by decide, by decide⟩

section
variable (h : MaxDominates lo hi)
include h

/-- R78: when the maximum fits, the minimum does too. -/
theorem MaxDominates.outMin_le (hScale : 1 ≤ sc) (hTop : sc * hi ≤ outMax w) : outMin w ≤ sc * lo := by
  have hNeg : sc * -hi ≤ sc * lo := mul_le_mul_of_nonneg_left h.neg_hi_le (by omega)
  have hMin := outMin_eq_neg_outMax w
  rw [mul_neg] at hNeg
  omega

theorem MaxDominates.worstCaseFits_iff_hi (hScale : 1 ≤ sc) :
    WorstCaseFits w lo hi sc ↔ sc * hi ≤ outMax w :=
  (worstCaseFits_iff h.lt hScale w).trans (and_iff_right_of_imp (h.outMin_le hScale))

theorem MaxDominates.fits_bottom (hScale : 1 ≤ sc) (hTop : Fits w (interp 16383 lo hi sc)) :
    Fits w (interp 0 lo hi sc) := by
  have hHi : sc * hi ≤ outMax w := interp_raw_max lo hi sc ▸ hTop.2
  exact ((h.worstCaseFits_iff_hi hScale).mpr hHi).2

/-- A range of which 127 is an upper bound fits, unscaled, every width from 8 on. -/
theorem MaxDominates.worstCaseFits_one (hHi : hi ≤ 127) (hw : 8 ≤ w) : WorstCaseFits w lo hi 1 := by
  have hWidth : outMax 8 ≤ outMax w := outMax_mono hw
  have hMax : outMax 8 = 127 := by decide
  exact (h.worstCaseFits_iff_hi le_rfl).mpr (by omega)

theorem MaxDominates.scaleCore_succeeds_iff_hi (hRaw : 0 ≤ r ∧ r ≤ 16383) (hf : s.faulted = false) :
    (scaleCore w r lo hi sc s).faulted = false ∧ (scaleCore w r lo hi sc s).err = 0 ↔
      1 ≤ sc ∧ sc * hi ≤ outMax w := by
  rw [scaleCore_succeeds_iff hf, and_iff_right h.lt, and_iff_right hRaw]
  exact and_congr_right h.worstCaseFits_iff_hi

end

/-- SCALE_OOB is no success: it leaves ERR at 2. -/
theorem completeErr_ne_completeOk (v : Word) : completeErr .scaleOob s ≠ completeOk v s := fun h =>
  absurd (congrArg State.err h) (by simp [errorCode])

end

/-- Settles O27: after the contract checks only the overflow check is left, which does not name the sample; for
(0, 100) it is the bound on the maximum. -/
theorem overflowCheckIsStatic : Obligations.OverflowCheckIsStatic := by
  refine ⟨fun w r r' lo hi sc s hRange hScale hr hrMax hr' hrMax' => ?_, fun w r sc s _ _ hr hrMax hScale => ?_⟩
  · by_cases hFits : WorstCaseFits w lo hi sc
    · exact .inr ⟨scaleCore_of_fits hRange ⟨hr, hrMax⟩ hScale hFits,
        scaleCore_of_fits hRange ⟨hr', hrMax'⟩ hScale hFits⟩
    · exact .inl ⟨scaleCore_of_not_fits hRange ⟨hr, hrMax⟩ hScale hFits,
        scaleCore_of_not_fits hRange ⟨hr', hrMax'⟩ hScale hFits⟩
  · rw [Int.le_ediv_iff_mul_le (by decide), ← maxDominates_humidity.worstCaseFits_iff_hi hScale]
    by_cases hFits : WorstCaseFits w 0 100 sc
    · exact ⟨fun _ => hFits, fun _ => ⟨_, scaleCore_of_fits (by decide) ⟨hr, hrMax⟩ hScale hFits⟩⟩
    · rw [scaleCore_of_not_fits (by decide) ⟨hr, hrMax⟩ hScale hFits]
      exact ⟨fun ⟨v, hv⟩ => absurd hv (completeErr_ne_completeOk v), fun h => absurd h hFits⟩

end Sys2Proof.Machine
end

section
/-! The commands of the scaling engine (41_scaling_engine.md R72 to R76): their faults, their error and their
results. -/

namespace Sys2Proof.Machine

/-- R72: SCALED is the core over its operand registers. -/
theorem exec_scaled (s : State) :
    exec .scaled s = .next (scaleCore 32 s.raw.toNat s.min.toInt s.max.toInt s.scale.toNat s) := rfl

/-- Settles O28: the word by evaluation, each fault and the two other ends by the core's lemma for that branch. -/
theorem scaledChecksThenInterpolates : Obligations.ScaledChecksThenInterpolates := by
  refine ⟨rfl, fun s hRange => ?_, fun s hRange hRaw => ?_, fun s hRange hRaw hScale => ?_,
    fun s hRange hRaw hScale hOver => ?_, fun s hRange hRaw hScale hTop hBot => ?_⟩ <;> rw [exec_scaled]
  · exact congrArg _ (scaleCore_of_not_lt (by omega))
  · exact congrArg _ (scaleCore_of_raw_out_of_range hRange (by omega))
  · exact congrArg _ (scaleCore_of_scale_not_positive hRange (by omega) (by omega))
  · refine congrArg _ (scaleCore_of_not_fits hRange (by omega) (by omega) ?_)
    rw [worstCaseFits_iff hRange (by omega), outMin_32, outMax_32]
    omega
  · refine congrArg _ (scaleCore_of_fits hRange (by omega) (by omega) ?_)
    rw [worstCaseFits_iff hRange (by omega), outMin_32, outMax_32]
    exact ⟨hBot, hTop⟩

/-! ### The fixed ranges -/

section
variable {range : Config.ScaledRange} (h : MaxDominates range.lo range.hi) (r : BitVec 14) (s : State)
include h

theorem scaleFixed_of_scale_zero : scaleFixed range r 0 s = raiseFault .scaleNotPositive s :=
  scaleCore_of_scale_not_positive h.lt (sample_range r) (by decide)

theorem scaleFixed_of_overflow {sc : Int} (hScale : 1 ≤ sc) (hOver : 2 ^ 31 - 1 < sc * range.hi) :
    scaleFixed range r sc s = completeErr .scaleOob s :=
  scaleCore_of_not_fits h.lt (sample_range r) hScale (mt (h.worstCaseFits_iff_hi hScale).mp (not_le.mpr hOver))

theorem scaleFixed_of_fits {sc : Int} (hScale : 1 ≤ sc) (hFits : sc * range.hi ≤ 2 ^ 31 - 1) :
    scaleFixed range r sc s = completeOk (twos32 (interp (sample r) range.lo range.hi sc)) s :=
  scaleCore_of_fits h.lt (sample_range r) hScale ((h.worstCaseFits_iff_hi hScale).mpr hFits)

end

theorem interp_humidity (r sc : Nat) : interp r 0 100 sc = ((sc * r * 100 + 8191) / 16383 : Nat) := by
  simp [interp_eq]

theorem interp_temperature (r sc : Nat) :
    interp r (-40) 125 sc = -40 * (sc : Int) + ((sc * r * 165 + 8191) / 16383 : Nat) := by
  rw [interp_eq, mul_comm (sc : Int) (-40)]
  rfl

/-- The humidity value as R73 writes it, from bits 29:16 of MEAS. -/
theorem twos32_interp_humidity (m : Word) (sc : Nat) :
    twos32 (interp (sample (humRaw m)) 0 100 sc) =
      BitVec.ofNat 32 ((sc * (m.toNat / 2 ^ 16 % 2 ^ 14) * 100 + 8191) / 16383) := by
  rw [sample, interp_humidity, twos32_natCast, humRaw_toNat]
  rfl

/-- The temperature value as R74 writes it, from bits 15:2 of MEAS. -/
theorem twos32_interp_temperature (m : Word) (sc : Nat) :
    twos32 (interp (sample (tempRaw m)) (-40) 125 sc) =
      BitVec.ofInt 32 (-40 * (sc : Int) + ((sc * (m.toNat / 2 ^ 2 % 2 ^ 14) * 165 + 8191) / 16383 : Nat)) := by
  rw [sample, interp_temperature, twos32, tempRaw_toNat]
  rfl

/-! ### The fixed-range commands with a Measurement -/

section
variable {s : State} (hmv : s.mv = true)
include hmv

theorem exec_humScaled_of_measurement :
    exec .humScaled s = .next (scaleFixed Config.humidityRange (humRaw s.meas) s.scale.toNat s) :=
  congrArg Host.Outcome.next (requireMeasurement_true _ s hmv)

theorem exec_tempScaled_of_measurement :
    exec .tempScaled s = .next (scaleFixed Config.temperatureRange (tempRaw s.meas) s.scale.toNat s) :=
  congrArg Host.Outcome.next (requireMeasurement_true _ s hmv)

theorem exec_hum_of_measurement :
    exec .hum s = .next (scaleFixed Config.humidityRange (humRaw s.meas) 1 s) :=
  congrArg Host.Outcome.next (requireMeasurement_true _ s hmv)

theorem exec_temp_of_measurement :
    exec .temp s = .next (scaleFixed Config.temperatureRange (tempRaw s.meas) 1 s) :=
  congrArg Host.Outcome.next (requireMeasurement_true _ s hmv)

end

/-- Settles O30: the fault without a Measurement by R61, the other three ends by the lemmas of the fixed ranges. -/
theorem humScaledScalesTheHumidity : Obligations.HumScaledScalesTheHumidity := by
  refine ⟨rfl, fun s => exec_of_no_measurement (by decide) (by decide), fun s hmv hScale => ?_,
    fun s hmv hOver => ?_, fun s hmv hScale hFits => ?_⟩ <;> rw [exec_humScaled_of_measurement hmv]
  · rw [hScale]
    exact congrArg _ (scaleFixed_of_scale_zero maxDominates_humidity _ s)
  · have hTop : (2 : Int) ^ 31 - 1 < s.scale.toNat * 100 := by omega
    exact congrArg _ (scaleFixed_of_overflow maxDominates_humidity _ s (by omega) hTop)
  · have hTop : (s.scale.toNat : Int) * 100 ≤ 2 ^ 31 - 1 := by omega
    rw [scaleFixed_of_fits maxDominates_humidity _ s (by omega) hTop, ← twos32_interp_humidity]
    rfl

/-- Settles O31: the fault without a Measurement by R61, the other three ends by the lemmas of the fixed ranges. -/
theorem tempScaledScalesTheTemperature : Obligations.TempScaledScalesTheTemperature := by
  refine ⟨rfl, fun s => exec_of_no_measurement (by decide) (by decide), fun s hmv hScale => ?_,
    fun s hmv hOver => ?_, fun s hmv hScale hFits => ?_⟩ <;> rw [exec_tempScaled_of_measurement hmv]
  · rw [hScale]
    exact congrArg _ (scaleFixed_of_scale_zero maxDominates_temperature _ s)
  · have hTop : (2 : Int) ^ 31 - 1 < s.scale.toNat * 125 := by omega
    exact congrArg _ (scaleFixed_of_overflow maxDominates_temperature _ s (by omega) hTop)
  · have hTop : (s.scale.toNat : Int) * 125 ≤ 2 ^ 31 - 1 := by omega
    rw [scaleFixed_of_fits maxDominates_temperature _ s (by omega) hTop, ← twos32_interp_temperature]
    rfl

/-- HUM always has a result: at scale 1 the humidity range fits. -/
theorem exec_hum_eq_completeOk {s : State} (hmv : s.mv = true) :
    exec .hum s = .next (completeOk (twos32 (interp (sample (humRaw s.meas)) 0 100 1)) s) := by
  rw [exec_hum_of_measurement hmv]
  exact congrArg _ (scaleFixed_of_fits maxDominates_humidity _ s (by decide) (by decide))

/-- TEMP always has a result: at scale 1 the temperature range fits. -/
theorem exec_temp_eq_completeOk {s : State} (hmv : s.mv = true) :
    exec .temp s = .next (completeOk (twos32 (interp (sample (tempRaw s.meas)) (-40) 125 1)) s) := by
  rw [exec_temp_of_measurement hmv]
  exact congrArg _ (scaleFixed_of_fits maxDominates_temperature _ s (by decide) (by decide))

/-- At SCALE = 1 the scaled commands read the scale of the rounded ones. -/
theorem zext_eq_roundedScale {v : Word} (h : v = 1) : zext v = Config.roundedScale := by
  rw [h]; decide

/-- Settles O32: R61 for the fault, the humidity value at scale 1, and HUMSCALED with that scale. -/
theorem humRoundsTheHumidity : Obligations.HumRoundsTheHumidity := by
  refine ⟨rfl, fun s => exec_of_no_measurement (by decide) (by decide), fun s hmv => ⟨?_, by omega⟩,
    fun s hScale => ?_⟩
  · have hValue := twos32_interp_humidity s.meas 1
    rw [one_mul] at hValue
    rw [exec_hum_eq_completeOk hmv, ← hValue]
    rfl
  · rw [exec, exec, execHum, execHumScaled, zext_eq_roundedScale hScale]

/-- Settles O33: R61 for the fault, the temperature value at scale 1, and TEMPSCALED with that scale. -/
theorem tempRoundsTheTemperature : Obligations.TempRoundsTheTemperature := by
  refine ⟨rfl, fun s => exec_of_no_measurement (by decide) (by decide), fun s hmv => ⟨?_, by omega⟩,
    fun s hScale => ?_⟩
  · have hValue := twos32_interp_temperature s.meas 1
    rw [one_mul] at hValue
    rw [exec_temp_eq_completeOk hmv]
    exact congrArg (fun v => Host.Outcome.next (completeOk v s)) hValue
  · rw [exec, exec, execTemp, execTempScaled, zext_eq_roundedScale hScale]

end Sys2Proof.Machine
end

section
/-! The results and the thresholds of the fixed ranges (41_scaling_engine.md R77 to R79). -/

namespace Sys2Proof.Machine

/-- A command that reads the Measurement and does not end faulted had one. -/
theorem measurement_of_not_faulted {i : Instr} (hDecode : i ≠ .decode) (hScaled : i ≠ .scaled) {s t : State}
    (h : exec i s = .next t) (ht : t.faulted = false) : s.mv = true := by
  by_contra hmv
  cases h.symm.trans (exec_of_no_measurement hDecode hScaled (Bool.not_eq_true _ ▸ hmv))
  simp at ht

/-- Settles O35: both ranges' maxima dominate, and HUM and TEMP with a Measurement always have a result. -/
theorem fixedRangesNeedNoMinimumCheck : Obligations.FixedRangesNeedNoMinimumCheck := by
  refine ⟨fun w sc hScale =>
      ⟨maxDominates_humidity.fits_bottom hScale, maxDominates_temperature.fits_bottom hScale⟩,
    fun w hw => ⟨maxDominates_humidity.worstCaseFits_one (by decide) hw,
      maxDominates_temperature.worstCaseFits_one (by decide) hw⟩, ?_⟩
  rintro s t - (h | h) ht
  · have hmv : s.mv = true := measurement_of_not_faulted (by decide) (by decide) h ht
    cases h.symm.trans (exec_hum_eq_completeOk hmv)
    rfl
  · have hmv : s.mv = true := measurement_of_not_faulted (by decide) (by decide) h ht
    cases h.symm.trans (exec_temp_eq_completeOk hmv)
    rfl

/-- R77 of a result: it lies between the scaled bounds, and the ends of the sample range give the bounds. -/
def ResultSpans (r : Nat) (lo hi : Int) (v : Word) : Prop :=
  lo ≤ v.toInt ∧ v.toInt ≤ hi ∧ (r = 0 → v.toInt = lo) ∧ (r = 16383 → v.toInt = hi)

/-- The value of a scaling that passes its checks spans the scaled range. -/
theorem resultSpans_interp {lo hi sc : Int} (hRange : lo < hi) (hScale : 1 ≤ sc)
    (hFits : WorstCaseFits 32 lo hi sc) (r : BitVec 14) :
    ResultSpans r.toNat (sc * lo) (sc * hi) (twos32 (interp (sample r) lo hi sc)) := by
  obtain ⟨hr, hr'⟩ := sample_range r
  unfold ResultSpans
  rw [twos32_toInt_of_fits le_rfl (fits_interp hRange hScale hr hr' hFits)]
  refine ⟨scale_mul_lo_le_interp hRange hScale hr, interp_le_scale_mul_hi hRange hScale hr',
    fun h => ?_, fun h => ?_⟩
  · rw [sample, h]; exact interp_raw_zero lo hi sc
  · rw [sample, h]; exact interp_raw_max lo hi sc

/-- A command that scales its sample over a fixed range has, when it succeeds, a result that spans the range. -/
theorem resultSpans_of_exec {i : Instr} (hDecode : i ≠ .decode) (hScaled : i ≠ .scaled)
    {range : Config.ScaledRange} {r : BitVec 14} {n : Nat} {sc lo hi : Int} {s t : State}
    (hExec : s.mv = true → exec i s = .next (scaleFixed range r sc s))
    (hr : r.toNat = n) (hLo : sc * range.lo = lo) (hHi : sc * range.hi = hi) (hf : s.faulted = false)
    (h : exec i s = .next t) (ht : t.faulted = false) (hErr : t.err = 0) :
    ResultSpans n lo hi t.result := by
  cases h.symm.trans (hExec (measurement_of_not_faulted hDecode hScaled h ht))
  obtain ⟨hRange, hRaw, hScale, hFits⟩ := (scaleCore_succeeds_iff hf).mp ⟨ht, hErr⟩
  have hOk : scaleFixed range r sc s = completeOk (twos32 (interp (sample r) range.lo range.hi sc)) s :=
    scaleCore_of_fits hRange hRaw hScale hFits
  rw [hOk, ← hr, ← hLo, ← hHi]
  exact resultSpans_interp hRange hScale hFits r

/-- Settles O34: each command scales its sample over its range; HUM and TEMP succeed whenever they do
not fault (R78). -/
theorem fixedRangeResultsStayInRange : Obligations.FixedRangeResultsStayInRange := by
  intro s t hf
  obtain ⟨-, -, hNoError⟩ := fixedRangesNeedNoMinimumCheck
  refine ⟨fun h ht hErr => ?_, fun h ht hErr => ?_, fun h ht => ?_, fun h ht => ?_⟩
  · exact resultSpans_of_exec (by decide) (by decide) exec_humScaled_of_measurement (humRaw_toNat _) (mul_zero _)
      (mul_comm _ _) hf h ht hErr
  · exact resultSpans_of_exec (by decide) (by decide) exec_tempScaled_of_measurement (tempRaw_toNat _) (mul_comm _ _)
      (mul_comm _ _) hf h ht hErr
  · exact resultSpans_of_exec (by decide) (by decide) exec_hum_of_measurement (humRaw_toNat _) (one_mul _)
      (one_mul _) hf h ht (hNoError s t hf (.inl h) ht)
  · exact resultSpans_of_exec (by decide) (by decide) exec_temp_of_measurement (tempRaw_toNat _) (one_mul _)
      (one_mul _) hf h ht (hNoError s t hf (.inr h) ht)

/-- Success, as R79 counts it: the command ends not faulted and with ERR = 0. -/
def Succeeds (i : Instr) (s : State) : Prop := ∃ t, exec i s = .next t ∧ t.faulted = false ∧ t.err = 0

theorem succeeds_iff {i : Instr} {s t : State} (h : exec i s = .next t) :
    Succeeds i s ↔ t.faulted = false ∧ t.err = 0 := by
  refine ⟨?_, fun ht => ⟨t, h, ht⟩⟩
  rintro ⟨u, hu, hSuccess⟩
  cases h.symm.trans hu
  exact hSuccess

/-- R79: a command that scales a legal sample by SCALE, over a range whose maximum dominates, succeeds exactly up to
the scale at which the maximum is still at most `OUT_MAX`. -/
theorem succeeds_iff_scale_le {i : Instr} {s : State} {r lo hi : Int} (hRange : MaxDominates lo hi)
    (hRaw : 0 ≤ r ∧ r ≤ 16383) (hf : s.faulted = false)
    (hExec : exec i s = .next (scaleCore 32 r lo hi s.scale.toNat s)) :
    Succeeds i s ↔ 1 ≤ s.scale.toNat ∧ s.scale.toNat * hi ≤ 2147483647 := by
  rw [succeeds_iff hExec, hRange.scaleCore_succeeds_iff_hi hRaw hf, outMax_32, Nat.one_le_cast]

theorem humScaled_succeeds_iff {s : State} (hmv : s.mv = true) (hf : s.faulted = false) :
    Succeeds .humScaled s ↔ 1 ≤ s.scale.toNat ∧ s.scale.toNat ≤ 21474836 := by
  rw [succeeds_iff_scale_le maxDominates_humidity (sample_range _) hf (exec_humScaled_of_measurement hmv)]
  omega

theorem tempScaled_succeeds_iff {s : State} (hmv : s.mv = true) (hf : s.faulted = false) :
    Succeeds .tempScaled s ↔ 1 ≤ s.scale.toNat ∧ s.scale.toNat ≤ 17179869 := by
  rw [succeeds_iff_scale_le maxDominates_temperature (sample_range _) hf (exec_tempScaled_of_measurement hmv)]
  omega

theorem scaled_succeeds_iff {s : State} (hMin : s.min = 0) (hMax : s.max = 100) (hRaw : s.raw.toNat ≤ 16383)
    (hf : s.faulted = false) : Succeeds .scaled s ↔ 1 ≤ s.scale.toNat ∧ s.scale.toNat ≤ 21474836 := by
  have hExec : exec .scaled s = .next (scaleCore 32 s.raw.toNat 0 100 s.scale.toNat s) := by
    rw [exec_scaled, hMin, hMax]; rfl
  rw [succeeds_iff_scale_le maxDominates_humidity (by omega) hf hExec]
  omega

/-- Settles O36: the threshold of each command, and 2^24 below both thresholds. -/
theorem scaleThresholds : Obligations.ScaleThresholds := fun _ hf =>
  ⟨fun hmv => humScaled_succeeds_iff hmv hf, fun hMin hMax hRaw => scaled_succeeds_iff hMin hMax hRaw hf,
    fun hmv => tempScaled_succeeds_iff hmv hf,
    fun hmv hScale => ⟨(humScaled_succeeds_iff hmv hf).mpr (by omega),
      (tempScaled_succeeds_iff hmv hf).mpr (by omega)⟩⟩

end Sys2Proof.Machine
end

section
/-! The fault state (60_exceptions.md R90 to R92): how a CMD write enters it, what it ignores there, and which
condition decides how a CMD write ends. -/

namespace Sys2Proof.Machine

/-! ### The CMD write -/

/-- A pending CMD write of `w` is `ExecuteCommand(w)`. -/
theorem step_commandWrite (s : State) (rest : List Event) (w : Word) :
    step { s with pending := .transaction (.write 0x00 4 w) :: rest } =
      executeCommand w { s with pending := rest } :=
  step_write_regOffset s rest .cmd w

theorem executeCommand_of_faulted (w : Word) (s : State) (hf : s.faulted = true) :
    executeCommand w s = .next s :=
  if_pos hf

theorem executeCommand_encode (i : Instr) (s : State) (hf : s.faulted = false) :
    executeCommand (encode i) s = exec i s := by
  have hDecode : decode (encode i) = .ok i := (decode_eq_ok_iff_eq_encode _ i).mpr rfl
  simp [executeCommand, hf, hDecode]

/-- A register read does not see the host's side. -/
theorem readReg_pending (r : Reg) (s : State) (p : List Event) :
    readReg r { s with pending := p } = readReg r s := by
  cases r <;> rfl

/-- Settles O11: a CMD write is ignored while faulted; the other writes and the reads do not look at FAULTED. -/
theorem faultedBlockIgnoresCommandsOnly : Obligations.FaultedBlockIgnoresCommandsOnly := by
  intro s rest v hf
  obtain ⟨-, -, hWrites⟩ := registerMapReadsAndWrites
  obtain ⟨hCmd, -, hFrame, -, hRaw, hMin, hMax, hScale, -⟩ := hWrites s rest v
  refine ⟨hCmd.trans (executeCommand_of_faulted v _ hf), hFrame, hRaw, hMin, hMax, hScale, fun r => ?_⟩
  rw [step_read_regOffset, hostRead, readReg_pending]

/-! ### Fault entry -/

/-- R89: the causes are numbered from 1 to 5. -/
theorem causeCode_range (c : FaultCause) : 1 ≤ (causeCode c).toNat ∧ (causeCode c).toNat ≤ 5 := by
  cases c <;> decide

/-- Of the four ways a command ends, one raises FAULTED. -/
theorem Ends.eq_raiseFault {i : Instr} {s t : State} (h : Ends i s t) (hs : s.faulted = false)
    (ht : t.faulted = true) : ∃ c, t = raiseFault c s := by
  cases h with
  | fault c _ _ => exact ⟨c, rfl⟩
  | success | accepted | error => exact absurd (hs.symm.trans ht) (by decide)

/-- R90: a CMD write enters the fault state by raising a fault, and does nothing else. -/
theorem executeCommand_eq_raiseFault {w : Word} {s t : State} (h : executeCommand w s = .next t)
    (hs : s.faulted = false) (ht : t.faulted = true) : ∃ c, t = raiseFault c s := by
  obtain ⟨-, he⟩ | ⟨-, -, he⟩ | ⟨-, i, u, -, -, he, hEnds⟩ := executeCommand_cases w s <;>
    cases h.symm.trans he
  · exact absurd (hs.symm.trans ht) (by decide)
  · exact ⟨.illegalCommand, rfl⟩
  · exact hEnds.eq_raiseFault hs ht

/-- Settles O10: the write ends in a raised fault, which sets FAULTED and one of the five causes. -/
theorem faultEntryWritesOnlyFaultedAndCause : Obligations.FaultEntryWritesOnlyFaultedAndCause := by
  intro s t rest w hf hStep ht
  rw [step_commandWrite] at hStep
  obtain ⟨c, rfl⟩ := executeCommand_eq_raiseFault hStep hf ht
  exact ⟨rfl, causeCode_range c⟩

/-! ### The first applicable condition (R92) -/

theorem one_le_toNat_of_ne_zero {v : Word} (h : v ≠ 0) : 1 ≤ v.toNat :=
  Nat.one_le_iff_ne_zero.mpr fun h0 => h (BitVec.eq_of_toNat_eq h0)

/-- Items 2 and 3 are the illegal words: every other word is a command's. -/
theorem exists_eq_encode {w : Word} (hRsv : ¬ w.toNat / 16 ≠ 0)
    (hOp : ¬ (w.toNat % 16 = 0 ∨ 0xA ≤ w.toNat % 16)) : ∃ i, w = encode i := by
  obtain ⟨i, hi⟩ := (exists_decode_eq_ok_iff w).mpr (by omega)
  exact ⟨i, (decode_eq_ok_iff_eq_encode w i).mp hi⟩

/-- The condition of item 4. -/
def LacksMeasurement (w : Word) (s : State) : Prop := w ≠ 1 ∧ w ≠ 5 ∧ s.mv = false

/-- The condition of item 7. -/
def LacksScale (w : Word) (s : State) : Prop := (w = 5 ∨ w = 6 ∨ w = 7) ∧ s.scale = 0

/-- The condition of item 9: the worst-case check in closed form (41_scaling_engine.md R68, R78). -/
def FailsWorstCase (w : Word) (s : State) : Prop :=
  (w = 5 ∧ (2 ^ 31 - 1 < (s.scale.toNat : Int) * s.max.toInt ∨ (s.scale.toNat : Int) * s.min.toInt < -2 ^ 31)) ∨
  (w = 6 ∧ 2 ^ 31 - 1 < 100 * s.scale.toNat) ∨ (w = 7 ∧ 2 ^ 31 - 1 < 125 * s.scale.toNat)

theorem measurement_of_not_lacks {w : Word} {s : State} (h : ¬ LacksMeasurement w s) (hDecode : w ≠ 1)
    (hScaled : w ≠ 5) : s.mv = true :=
  Bool.eq_true_of_not_eq_false fun hmv => h ⟨hDecode, hScaled, hmv⟩

theorem scale_of_not_lacks {w : Word} {s : State} (h : ¬ LacksScale w s) (hw : w = 5 ∨ w = 6 ∨ w = 7) :
    1 ≤ s.scale.toNat :=
  one_le_toNat_of_ne_zero (not_and.mp h hw)

/-- The commands whose one condition is the Measurement succeed whenever there is one. -/
theorem succeeds_of_measurement {i : Instr} {s : State} (hf : s.faulted = false) (hmv : s.mv = true)
    (hi : i = .stale ∨ i = .humRaw ∨ i = .tempRaw ∨ i = .hum ∨ i = .temp) : Succeeds i s := by
  obtain rfl | rfl | rfl | rfl | rfl := hi
  · exact ⟨_, exec_stale_of_measurement hmv, hf, rfl⟩
  · exact ⟨_, exec_humRaw_of_measurement hmv, hf, rfl⟩
  · exact ⟨_, exec_tempRaw_of_measurement hmv, hf, rfl⟩
  · exact ⟨_, exec_hum_eq_completeOk hmv, hf, rfl⟩
  · exact ⟨_, exec_temp_eq_completeOk hmv, hf, rfl⟩

section
variable {w : Word} (s : State) (hf : s.faulted = false)
include hf

/-- Item 4. -/
theorem executeCommand_of_lacksMeasurement (hLegal : ∃ i, w = encode i) (h : LacksMeasurement w s) :
    executeCommand w s = .next (raiseFault .noMeasurement s) := by
  obtain ⟨i, rfl⟩ := hLegal
  obtain ⟨hDecode, hScaled, hmv⟩ := h
  rw [executeCommand_encode i s hf]
  exact exec_of_no_measurement (fun hi => hDecode (congrArg encode hi)) (fun hi => hScaled (congrArg encode hi)) hmv

/-- Item 5. -/
theorem executeCommand_of_max_le_min (h : w = 5 ∧ s.max.toInt ≤ s.min.toInt) :
    executeCommand w s = .next (raiseFault .maxNotGreaterThanMin s) := by
  obtain ⟨rfl, hRange⟩ := h
  obtain ⟨-, hExec, -⟩ := scaledChecksThenInterpolates
  exact (executeCommand_encode .scaled s hf).trans (hExec s hRange)

/-- Item 8. -/
theorem executeCommand_of_cmode (h : w = 1 ∧ s.frame.getLsbD 31 = true) :
    executeCommand w s = .next (completeErr .cmode s) := by
  obtain ⟨rfl, hFlag⟩ := h
  exact (executeCommand_encode .decode s hf).trans (exec_decode_of_cmode hFlag)

variable (hRange : ¬ (w = 5 ∧ s.max.toInt ≤ s.min.toInt))
include hRange

/-- Item 6, after item 5. -/
theorem executeCommand_of_raw_out_of_range (h : w = 5 ∧ 16383 < s.raw.toNat) :
    executeCommand w s = .next (raiseFault .rawOutOfRange s) := by
  obtain ⟨rfl, hRaw⟩ := h
  obtain ⟨-, -, hExec, -⟩ := scaledChecksThenInterpolates
  exact (executeCommand_encode .scaled s hf).trans (hExec s (not_le.mp (not_and.mp hRange rfl)) hRaw)

variable (hMeas : ¬ LacksMeasurement w s) (hRaw : ¬ (w = 5 ∧ 16383 < s.raw.toNat))
include hMeas hRaw

/-- Item 7, after items 4 to 6. -/
theorem executeCommand_of_lacksScale (h : LacksScale w s) :
    executeCommand w s = .next (raiseFault .scaleNotPositive s) := by
  obtain ⟨rfl | rfl | rfl, hZero⟩ := h
  · obtain ⟨-, -, -, hExec, -⟩ := scaledChecksThenInterpolates
    exact (executeCommand_encode .scaled s hf).trans (hExec s (not_le.mp (not_and.mp hRange rfl))
      (not_lt.mp (not_and.mp hRaw rfl)) (congrArg _ hZero))
  · obtain ⟨-, -, hExec, -⟩ := humScaledScalesTheHumidity
    have hmv := measurement_of_not_lacks hMeas (by decide) (by decide)
    exact (executeCommand_encode .humScaled s hf).trans (hExec s hmv (congrArg _ hZero))
  · obtain ⟨-, -, hExec, -⟩ := tempScaledScalesTheTemperature
    have hmv := measurement_of_not_lacks hMeas (by decide) (by decide)
    exact (executeCommand_encode .tempScaled s hf).trans (hExec s hmv (congrArg _ hZero))

variable (hScale : ¬ LacksScale w s)
include hScale

/-- Item 9, after items 4 to 7. -/
theorem executeCommand_of_failsWorstCase (h : FailsWorstCase w s) :
    executeCommand w s = .next (completeErr .scaleOob s) := by
  obtain ⟨rfl, hOver⟩ | ⟨rfl, hOver⟩ | ⟨rfl, hOver⟩ := h
  · obtain ⟨-, -, -, -, hExec, -⟩ := scaledChecksThenInterpolates
    exact (executeCommand_encode .scaled s hf).trans (hExec s (not_le.mp (not_and.mp hRange rfl))
      (not_lt.mp (not_and.mp hRaw rfl)) (scale_of_not_lacks hScale (by decide)) hOver)
  · obtain ⟨-, -, -, hExec, -⟩ := humScaledScalesTheHumidity
    have hmv := measurement_of_not_lacks hMeas (by decide) (by decide)
    exact (executeCommand_encode .humScaled s hf).trans (hExec s hmv hOver)
  · obtain ⟨-, -, -, hExec, -⟩ := tempScaledScalesTheTemperature
    have hmv := measurement_of_not_lacks hMeas (by decide) (by decide)
    exact (executeCommand_encode .tempScaled s hf).trans (hExec s hmv hOver)

/-- Item 10: a command to which no condition applies succeeds. -/
theorem executeCommand_succeeds (hLegal : ∃ i, w = encode i) (hCmode : ¬ (w = 1 ∧ s.frame.getLsbD 31 = true))
    (hFits : ¬ FailsWorstCase w s) : ∃ t, executeCommand w s = .next t ∧ t.faulted = false ∧ t.err = 0 := by
  obtain ⟨i, rfl⟩ := hLegal
  rw [executeCommand_encode i s hf]
  obtain ⟨hFitsScaled, hFitsRest⟩ := not_or.mp hFits
  obtain ⟨hFitsHum, hFitsTemp⟩ := not_or.mp hFitsRest
  cases i with
  | decode =>
    have hFlag := Bool.eq_false_of_not_eq_true (not_and.mp hCmode rfl)
    exact ⟨_, exec_decode_of_not_cmode hFlag, hf, rfl⟩
  | scaled =>
    obtain ⟨-, -, -, -, -, hExec⟩ := scaledChecksThenInterpolates
    obtain ⟨hTop, hBot⟩ := not_or.mp (not_and.mp hFitsScaled rfl)
    exact ⟨_, hExec s (not_le.mp (not_and.mp hRange rfl)) (not_lt.mp (not_and.mp hRaw rfl))
      (scale_of_not_lacks hScale (by decide)) (not_lt.mp hTop) (not_lt.mp hBot), hf, rfl⟩
  | humScaled =>
    obtain ⟨-, -, -, -, hExec⟩ := humScaledScalesTheHumidity
    have hmv := measurement_of_not_lacks hMeas (by decide) (by decide)
    exact ⟨_, hExec s hmv (scale_of_not_lacks hScale (by decide)) (not_lt.mp (not_and.mp hFitsHum rfl)), hf, rfl⟩
  | tempScaled =>
    obtain ⟨-, -, -, -, hExec⟩ := tempScaledScalesTheTemperature
    have hmv := measurement_of_not_lacks hMeas (by decide) (by decide)
    exact ⟨_, hExec s hmv (scale_of_not_lacks hScale (by decide)) (not_lt.mp (not_and.mp hFitsTemp rfl)), hf, rfl⟩
  | stale | humRaw | tempRaw | hum | temp =>
    have hmv := measurement_of_not_lacks hMeas (by decide) (by decide)
    exact succeeds_of_measurement hf hmv (by decide)

end

/-- Settles O9: each item of R92 by its lemma, under the negations of the items before it. -/
theorem firstApplicableConditionDecides : Obligations.FirstApplicableConditionDecides := by
  intro s rest w
  rw [step_commandWrite]
  by_cases hFaulted : s.faulted = true
  · simp only [if_pos hFaulted]
    exact ⟨_, executeCommand_of_faulted w _ hFaulted, rfl⟩
  · simp only [if_neg hFaulted]
    have hf : s.faulted = false := Bool.eq_false_of_not_eq_true hFaulted
    split_ifs with hRsv hOp hMeas hRange hRaw hScale hCmode hOver
    · exact ⟨_, executeCommand_of_not_legal hf (by omega), rfl⟩
    · exact ⟨_, executeCommand_of_not_legal hf (by omega), rfl⟩
    · exact ⟨_, executeCommand_of_lacksMeasurement _ hf (exists_eq_encode hRsv hOp) hMeas, rfl⟩
    · exact ⟨_, executeCommand_of_max_le_min _ hf hRange, rfl⟩
    · exact ⟨_, executeCommand_of_raw_out_of_range _ hf hRange hRaw, rfl⟩
    · exact ⟨_, executeCommand_of_lacksScale _ hf hRange hMeas hRaw hScale, rfl⟩
    · exact ⟨_, executeCommand_of_cmode _ hf hCmode, rfl⟩
    · exact ⟨_, executeCommand_of_failsWorstCase _ hf hRange hMeas hRaw hScale hOver, rfl⟩
    · exact executeCommand_succeeds _ hf hRange hMeas hRaw hScale (exists_eq_encode hRsv hOp) hCmode hOver

end Sys2Proof.Machine
end

section
/-! What a host write and a command leave of the registers, and what any event leaves of the host's side
(10_state.md R16; 20_memory.md R32, R36, R39). -/

namespace Sys2Proof.Machine

/-! ### Register reads after an update -/

theorem readReg_hostRead (r r' : Reg) (s : State) : readReg r (hostRead r' s) = readReg r s := by
  cases r <;> rfl

theorem readReg_resetBlock (r : Reg) (s : State) : readReg r (resetBlock s) = 0 := by
  rw [← readReg_reset r]
  cases r <;> rfl

/-- R36: a host write reaches its own register, when that is one the host may write, and no other. -/
theorem readReg_storeReg (r r' : Reg) (v : Word) (s : State) :
    readReg r (storeReg r' v s) = if r' = r ∧ r.writableInProgram = true then v else readReg r s := by
  cases r' <;> cases r <;> rfl

theorem regOffset_injective {r r' : Reg} (h : regOffset r = regOffset r') : r = r' :=
  Option.some_injective _ (by rw [← regAt_regOffset r, h, regAt_regOffset])

/-! ### Commands -/

/-- What no command writes: FRAME and the operand registers, and the host's side. -/
structure SameInputs (s t : State) : Prop where
  frame : t.frame = s.frame
  raw : t.raw = s.raw
  min : t.min = s.min
  max : t.max = s.max
  scale : t.scale = s.scale
  pending : t.pending = s.pending
  returned : t.returned = s.returned

theorem Ends.sameInputs {i : Instr} {s t : State} (h : Ends i s t) : SameInputs s t := by
  cases h with
  | success | accepted | error | fault => exact ⟨rfl, rfl, rfl, rfl, rfl, rfl, rfl⟩

theorem exec_sameInputs {i : Instr} {s t : State} (h : exec i s = .next t) : SameInputs s t := by
  obtain ⟨u, hu, hEnds⟩ := exec_ends i s
  cases h.symm.trans hu
  exact hEnds.sameInputs

theorem executeCommand_sameInputs {w : Word} {s t : State} (h : executeCommand w s = .next t) :
    SameInputs s t := by
  obtain ⟨-, he⟩ | ⟨-, -, he⟩ | ⟨-, i, u, -, hExec, he, -⟩ := executeCommand_cases w s <;>
    cases h.symm.trans he
  · exact ⟨rfl, rfl, rfl, rfl, rfl, rfl, rfl⟩
  · exact ⟨rfl, rfl, rfl, rfl, rfl, rfl, rfl⟩
  · exact exec_sameInputs hExec

/-- The registers the host may write are inputs of the commands. -/
theorem SameInputs.readReg {s t : State} (h : SameInputs s t) {r : Reg} (hr : r.writableInProgram = true) :
    readReg r t = readReg r s := by
  cases r with
  | frame => exact h.frame
  | raw => exact h.raw
  | min => exact h.min
  | max => exact h.max
  | scale => exact h.scale
  | cmd | status | meas | result => cases hr

/-! ### The host's side -/

/-- An event leaves the program behind it as it is, and returns at most one word. -/
theorem runEvent_hostSide {e : Event} {s t : State} (h : runEvent e s = .next t) :
    t.pending = s.pending ∧ (t.returned = s.returned ∨ ∃ v, t.returned = v :: s.returned) := by
  obtain ⟨-, rfl⟩ | ⟨r, -, rfl⟩ | ⟨r, v, -, -, rfl⟩ | ⟨w, -, hw⟩ := runEvent_cases e s t h
  · exact ⟨rfl, .inl rfl⟩
  · exact ⟨rfl, .inr ⟨_, rfl⟩⟩
  · exact ⟨storeReg_pending r v s, .inl (storeReg_returned r v s)⟩
  · exact ⟨(executeCommand_sameInputs hw).pending, .inl (executeCommand_sameInputs hw).returned⟩

theorem runEvent_pending {e : Event} {s t : State} (h : runEvent e s = .next t) : t.pending = s.pending :=
  (runEvent_hostSide h).1

/-- Settles O45: a waiting step has no event to take, and any other takes the first event off before running it. -/
theorem oneTransactionAtATimeInProgramOrder : Obligations.OneTransactionAtATimeInProgramOrder := by
  intro s t h
  obtain ⟨hp, rfl⟩ | ⟨e, rest, hp, he⟩ := step_cases s t h
  · rw [hp]
    exact ⟨rfl, .inl rfl⟩
  · rw [hp]
    exact runEvent_hostSide he

end Sys2Proof.Machine
end

section
/-! Runs, event by event: the induction that the statements about runs share. -/

namespace Sys2Proof.Machine

open Sys2Proof.Safety

/-- A silent host's run stays where it is (70_reset_and_hazards.md R109). -/
theorem reaches_of_silent {k : Nat} {s t : State} (h : Reaches k s t) (hp : s.pending = []) : t = s := by
  induction k with
  | zero => exact h
  | succ k ih =>
    obtain ⟨u, hsu, hut⟩ := h.first
    obtain ⟨-, rfl⟩ | ⟨e, rest, hCons, -⟩ := step_cases s u hsu
    · exact ih hut
    · cases hp.symm.trans hCons

/-- To show that `P s es t` holds of every run from `s` to `t` whose events are `es`: show it of the empty run, and
that one more event in front keeps it. -/
theorem reaches_event_induction {P : State → List Event → State → Prop} (nil : ∀ s, P s [] s)
    (cons : ∀ s e rest u es t, runEvent e { s with pending := rest } = .next u → P u es t → P s (e :: es) t)
    {k : Nat} {s t : State} (h : Reaches k s t) : P s (s.pending.take k) t := by
  induction k generalizing s with
  | zero => exact h ▸ nil s
  | succ k ih =>
    obtain ⟨u, hsu, hut⟩ := h.first
    obtain ⟨hp, rfl⟩ | ⟨e, rest, hp, he⟩ := step_cases s u hsu
    · rw [reaches_of_silent hut hp, hp]
      exact nil _
    · rw [hp, List.take_succ_cons]
      have hRest : u.pending = rest := runEvent_pending he
      exact cons s e rest u _ t he (hRest ▸ ih hut)

end Sys2Proof.Machine
end

section
/-! The fault state along a run (60_exceptions.md R91, R94; 70_reset_and_hazards.md R100). -/

namespace Sys2Proof.Machine

open Sys2Proof.Safety

/-- What only a command or a reset writes: STATUS, MEAS and RESULT. -/
structure SameOutputs (s t : State) : Prop where
  faulted : t.faulted = s.faulted
  fcause : t.fcause = s.fcause
  err : t.err = s.err
  mv : t.mv = s.mv
  meas : t.meas = s.meas
  result : t.result = s.result

theorem SameOutputs.trans {s t u : State} (hst : SameOutputs s t) (htu : SameOutputs t u) : SameOutputs s u :=
  ⟨htu.faulted.trans hst.faulted, htu.fcause.trans hst.fcause, htu.err.trans hst.err, htu.mv.trans hst.mv,
    htu.meas.trans hst.meas, htu.result.trans hst.result⟩

theorem sameOutputs_pending (s : State) (p : List Event) : SameOutputs s { s with pending := p } :=
  ⟨rfl, rfl, rfl, rfl, rfl, rfl⟩

/-- An event that writes STATUS, MEAS or RESULT is a reset or a CMD write to a block that is not faulted. -/
theorem runEvent_outputs {e : Event} {s t : State} (h : runEvent e s = .next t) :
    SameOutputs s t ∨ (e = .reset ∧ t = resetBlock s) ∨
      (∃ w, e = .transaction (.write 0x00 4 w) ∧ s.faulted = false ∧ executeCommand w s = .next t) := by
  obtain ⟨rfl, rfl⟩ | ⟨r, -, rfl⟩ | ⟨r, v, -, -, rfl⟩ | ⟨w, rfl, hw⟩ := runEvent_cases e s t h
  · exact .inr (.inl ⟨rfl, rfl⟩)
  · exact .inl ⟨rfl, rfl, rfl, rfl, rfl, rfl⟩
  · exact .inl ⟨storeReg_faulted r v s, storeReg_fcause r v s, storeReg_err r v s, storeReg_mv r v s,
      storeReg_meas r v s, storeReg_result r v s⟩
  · cases hf : s.faulted with
    | false => exact .inr (.inr ⟨w, rfl, rfl, hw⟩)
    | true =>
      cases hw.symm.trans (executeCommand_of_faulted w s hf)
      exact .inl ⟨rfl, rfl, rfl, rfl, rfl, rfl⟩

theorem runEvent_sameOutputs_of_faulted {e : Event} {s t : State} (h : runEvent e s = .next t)
    (hf : s.faulted = true) (he : e ≠ .reset) : SameOutputs s t := by
  obtain hSame | ⟨hReset, -⟩ | ⟨w, -, hf', -⟩ := runEvent_outputs h
  · exact hSame
  · exact absurd hReset he
  · exact absurd (hf.symm.trans hf') (by decide)

theorem reaches_sameOutputs_of_faulted {k : Nat} {s t : State} (h : Reaches k s t) :
    s.faulted = true → Event.reset ∉ s.pending.take k → SameOutputs s t := by
  refine reaches_event_induction (P := fun s es t => s.faulted = true → Event.reset ∉ es → SameOutputs s t)
    (fun s _ _ => ⟨rfl, rfl, rfl, rfl, rfl, rfl⟩) (fun s e rest u es t he ih hf hNone => ?_) h
  have hFirst : e ≠ .reset := (List.ne_of_not_mem_cons hNone).symm
  have hsu : SameOutputs s u :=
    (sameOutputs_pending s rest).trans (runEvent_sameOutputs_of_faulted he hf hFirst)
  exact hsu.trans (ih (hsu.faulted.trans hf) (List.not_mem_of_not_mem_cons hNone))

/-- Settles O12: by induction over the events of the run, none of which writes STATUS, MEAS or RESULT. -/
theorem faultIsStickyUntilReset : Obligations.FaultIsStickyUntilReset := by
  intro k s t hf hReach hNone
  have hSame := reaches_sameOutputs_of_faulted hReach hf hNone
  exact ⟨hSame.faulted.trans hf, hSame.fcause, hSame.err, hSame.mv, hSame.meas, hSame.result⟩

/-- Settles O2: the reset by evaluation; any other event leaves a faulted block's FAULTED as it is. -/
theorem resetRestoresRegistersAndAloneClearsFaults : Obligations.ResetRestoresRegistersAndAloneClearsFaults := by
  refine ⟨fun s rest => rfl, fun s t hf h ht => ?_⟩
  obtain ⟨-, rfl⟩ | ⟨e, rest, hp, he⟩ := step_cases s t h
  · exact absurd (hf.symm.trans ht) (by decide)
  · by_cases hReset : e = .reset
    · exact ⟨rest, hReset ▸ hp⟩
    · have hSame := runEvent_sameOutputs_of_faulted he hf hReset
      exact absurd ((hSame.faulted.trans hf).symm.trans ht) (by decide)

end Sys2Proof.Machine
end

section
/-! What the host last wrote (10_state.md R16; 20_memory.md R41). -/

namespace Sys2Proof.Machine

open Sys2Proof.Safety

/-- What a program last wrote, read from its first event on. -/
theorem lastWritten_cons (off : Nat) (e : Event) (es : List Event) (old : Word) :
    lastWritten off (e :: es) old = lastWritten off es (lastWritten off [e] old) := by
  cases e with
  | transaction x => cases x <;> rfl
  | reset | secondHost => rfl

/-- One event leaves in a register the host may write what the event writes there. -/
theorem runEvent_readReg {e : Event} {s t : State} (h : runEvent e s = .next t) {r : Reg}
    (hr : r.writableInProgram = true) : readReg r t = lastWritten (regOffset r) [e] (readReg r s) := by
  obtain ⟨rfl, rfl⟩ | ⟨r', rfl, rfl⟩ | ⟨r', v, -, rfl, rfl⟩ | ⟨w, rfl, hw⟩ := runEvent_cases e s t h
  · exact readReg_resetBlock r s
  · exact readReg_hostRead r r' s
  · rw [readReg_storeReg]
    simp only [lastWritten, hr, and_true]
    exact if_congr ⟨congrArg regOffset, regOffset_injective⟩ rfl rfl
  · have hOff : 0 ≠ regOffset r := fun h0 => by
      cases regOffset_injective (r := .cmd) h0
      cases hr
    rw [(executeCommand_sameInputs hw).readReg hr]
    exact (if_neg hOff).symm

theorem reaches_readReg {k : Nat} {s t : State} (h : Reaches k s t) {r : Reg} (hr : r.writableInProgram = true) :
    readReg r t = lastWritten (regOffset r) (s.pending.take k) (readReg r s) := by
  refine reaches_event_induction (P := fun s es t => readReg r t = lastWritten (regOffset r) es (readReg r s))
    (fun s => rfl) (fun s e rest u es t he ih => ?_) h
  rw [ih, lastWritten_cons, runEvent_readReg he hr, readReg_pending]

/-- Settles O46: by induction over the events of the run, at each of the five registers. -/
theorem operandRegistersHoldWhatTheHostLastWrote : Obligations.OperandRegistersHoldWhatTheHostLastWrote :=
  fun _ _ _ h => ⟨reaches_readReg h (r := .frame) rfl, reaches_readReg h (r := .raw) rfl,
    reaches_readReg h (r := .min) rfl, reaches_readReg h (r := .max) rfl, reaches_readReg h (r := .scale) rfl⟩

end Sys2Proof.Machine
end

section
/-! Programs run to their end (20_memory.md R39; 70_reset_and_hazards.md R109). -/

namespace Sys2Proof.Machine

open Sys2Proof.Safety

theorem runEvent_next_of_admissible {e : Event} (h : Admissible e) (s : State) : ∃ t, runEvent e s = .next t := by
  cases e with
  | transaction x => exact runTransaction_next_of_admissible h s
  | reset => exact ⟨_, rfl⟩
  | secondHost => exact h.elim

/-- Settles O48: by induction over the program, whose first event answers a next state with the rest pending. -/
theorem admittedProgramsRunToTheirEnd : Obligations.AdmittedProgramsRunToTheirEnd := by
  intro p s hp
  induction p generalizing s with
  | nil => exact ⟨_, rfl, rfl⟩
  | cons e p ih =>
    obtain ⟨he, hRest⟩ := List.forall_mem_cons.mp hp
    obtain ⟨u, hu⟩ := runEvent_next_of_admissible he { s with pending := p }
    have hPending : u.pending = p := runEvent_pending hu
    obtain ⟨t, ht, hEnd⟩ := ih u hRest
    subst hPending
    exact ⟨t, .cons hu ht, hEnd⟩

end Sys2Proof.Machine
end

section
/-! The invariant of the registers (10_state.md R14, R15, R20, R23). -/

namespace Sys2Proof.Machine

open Sys2Proof.Safety

/-- Settles O53: its four parts by evaluation. -/
theorem resetMeetsTheInvariant : Obligations.ResetMeetsTheInvariant := by
  unfold Obligations.ResetMeetsTheInvariant
  decide

/-- The invariant speaks of STATUS and MEAS only. -/
theorem SameOutputs.regInv {s t : State} (h : SameOutputs s t) (hs : RegInv s) : RegInv t := by
  unfold RegInv MeasurementNotCommandMode NoMeasurementMeansReset ErrLegal CauseLegal
  rw [h.mv, h.meas, h.err, h.faulted, h.fcause]
  exact hs

theorem regInv_completeOk (v : Word) {s : State} (h : RegInv s) : RegInv (completeOk v s) := by
  obtain ⟨hMode, hReset, -, hCause⟩ := h
  exact ⟨hMode, hReset, by simp [ErrLegal], hCause⟩

/-- R15: a frame is accepted only with its command-mode flag clear. -/
theorem regInv_acceptFrame {s : State} (h : RegInv s) (hFrame : s.frame.getLsbD 31 = false) :
    RegInv (acceptFrame s) := by
  obtain ⟨-, -, -, hCause⟩ := h
  exact ⟨fun _ => hFrame, by simp [NoMeasurementMeansReset], by simp [ErrLegal], hCause⟩

theorem regInv_completeErr (e : CommandError) {s : State} (h : RegInv s) : RegInv (completeErr e s) := by
  obtain ⟨hMode, hReset, -, hCause⟩ := h
  have hErr : errorCode e ≠ 3 := by cases e <;> decide
  exact ⟨hMode, hReset, hErr, hCause⟩

theorem regInv_raiseFault (c : FaultCause) {s : State} (h : RegInv s) : RegInv (raiseFault c s) := by
  obtain ⟨hMode, hReset, hErr, -⟩ := h
  have hCause : causeCode c ≠ 0 := by cases c <;> decide
  exact ⟨hMode, hReset, hErr, iff_of_false (by simp) hCause, (causeCode_range c).2⟩

theorem Ends.regInv {i : Instr} {s t : State} (h : Ends i s t) (hs : RegInv s) : RegInv t := by
  cases h with
  | success v _ => exact regInv_completeOk v hs
  | accepted _ hFrame => exact regInv_acceptFrame hs hFrame
  | error e => exact regInv_completeErr e hs
  | fault c _ _ => exact regInv_raiseFault c hs

theorem executeCommand_regInv {w : Word} {s t : State} (h : executeCommand w s = .next t) (hs : RegInv s) :
    RegInv t := by
  obtain ⟨-, he⟩ | ⟨-, -, he⟩ | ⟨-, i, u, -, -, he, hEnds⟩ := executeCommand_cases w s <;>
    cases h.symm.trans he
  · exact hs
  · exact regInv_raiseFault _ hs
  · exact hEnds.regInv hs

/-- Settles O54: a step waits, leaves STATUS and MEAS as they are, resets them, or runs a command; each of a
command's ends keeps the invariant. -/
theorem everyStepKeepsTheInvariant : Obligations.EveryStepKeepsTheInvariant := by
  intro s t hs h
  obtain ⟨-, rfl⟩ | ⟨e, rest, -, he⟩ := step_cases s t h
  · exact hs
  · obtain hSame | ⟨-, rfl⟩ | ⟨w, -, -, hw⟩ := runEvent_outputs he
    · exact hSame.regInv hs
    · exact resetMeetsTheInvariant
    · exact executeCommand_regInv hw hs

end Sys2Proof.Machine
end

section
/-! How a command ends and what it writes (60_exceptions.md R85; 10_state.md R17). -/

namespace Sys2Proof.Machine

open Sys2Proof.Safety

/-- The word of DECODE is 1 (30_encoding.md R46). -/
theorem eq_one_iff_of_decode {w : Word} {i : Instr} (hd : decode w = .ok i) : w = 1 ↔ i = .decode := by
  constructor
  · rintro rfl
    cases hd
    rfl
  · rintro rfl
    exact (decode_eq_ok_iff_eq_encode w .decode).mp hd

theorem errorCode_cases (e : CommandError) : errorCode e = 1 ∨ errorCode e = 2 := by
  cases e <;> decide

/-- Settles O8: an ignored word, an illegal word, or a command that ends in one of its four ways; and what is not
admitted is refused. -/
theorem commandEndsInExactlyOneOfFourOutcomes : Obligations.CommandEndsInExactlyOneOfFourOutcomes := by
  refine ⟨fun s rest w => ?_, fun s t rest off size v h => ⟨fun ht => ?_, fun ht => ?_⟩⟩
  · rw [step_commandWrite]
    obtain ⟨hf, he⟩ | ⟨hf, -, he⟩ | ⟨hf, i, t, hd, -, he, hEnds⟩ := executeCommand_cases w { s with pending := rest }
    · exact ⟨_, he, .inl ⟨hf, rfl⟩⟩
    · exact ⟨_, he, .inr (.inr (.inr ⟨hf, rfl, rfl⟩))⟩
    · refine ⟨t, he, .inr ?_⟩
      cases hEnds with
      | success v hi => exact .inl ⟨hf, hf, rfl, .inl ⟨mt (eq_one_iff_of_decode hd).mp hi, v, rfl⟩⟩
      | accepted hi _ => exact .inl ⟨hf, hf, rfl, .inr ⟨(eq_one_iff_of_decode hd).mpr hi, rfl⟩⟩
      | error e => exact .inr (.inl ⟨hf, hf, errorCode_cases e, rfl⟩)
      | fault c _ _ => exact .inr (.inr ⟨hf, rfl, rfl⟩)
  · exact h ((runTransaction_next_iff_admissible (.write off size v) _).mp ⟨t, ht⟩)
  · exact h ((runTransaction_next_iff_admissible (.read off size) _).mp ⟨t, ht⟩)

/-- R17: a command that changes RESULT is one other than DECODE, and it succeeds. -/
theorem Ends.result {i : Instr} {s t : State} (h : Ends i s t) :
    t.result = s.result ∨ (i ≠ .decode ∧ t.err = 0 ∧ t.faulted = s.faulted ∧ t.fcause = s.fcause) := by
  cases h with
  | success v hi => exact .inr ⟨hi, rfl, rfl, rfl⟩
  | accepted | error | fault => exact .inl rfl

theorem executeCommand_result {w : Word} {s t : State} (h : executeCommand w s = .next t) :
    t.result = s.result ∨
      (2 ≤ w.toNat ∧ w.toNat ≤ 9 ∧ s.faulted = false ∧ t.faulted = false ∧ t.err = 0) := by
  obtain ⟨-, he⟩ | ⟨-, -, he⟩ | ⟨hf, i, u, hd, -, he, hEnds⟩ := executeCommand_cases w s <;>
    cases h.symm.trans he
  · exact .inl rfl
  · exact .inl rfl
  · refine hEnds.result.imp_right ?_
    rintro ⟨hi, hErr, hFaulted, -⟩
    obtain ⟨hLo, hHi⟩ := decode_ok_range w i hd
    have hOne : w.toNat ≠ 1 := fun h1 => hi ((eq_one_iff_of_decode hd).mp (BitVec.eq_of_toNat_eq h1))
    exact ⟨by omega, hHi, hf, hFaulted.trans hf, hErr⟩

/-- Settles O47: only a reset or a command writes RESULT, and of the commands only one that succeeds. -/
theorem resultChangesOnlyBySuccess : Obligations.ResultChangesOnlyBySuccess := by
  intro s t h hResult
  obtain ⟨-, rfl⟩ | ⟨e, rest, hp, he⟩ := step_cases s t h
  · exact absurd rfl hResult
  · obtain hSame | ⟨rfl, rfl⟩ | ⟨w, rfl, -, hw⟩ := runEvent_outputs he
    · exact absurd hSame.result hResult
    · exact .inl ⟨rest, hp, rfl⟩
    · exact .inr ⟨rest, w, hp, (executeCommand_result hw).resolve_left hResult⟩

/-- Settles O21: only a reset or a DECODE that accepts its frame replaces the Measurement. -/
theorem onlyDecodeAndResetTouchTheMeasurement : Obligations.OnlyDecodeAndResetTouchTheMeasurement := by
  intro s t h hChange
  obtain ⟨-, rfl⟩ | ⟨e, rest, hp, he⟩ := step_cases s t h
  · exact absurd ⟨rfl, rfl⟩ (not_and_or.mpr hChange)
  · obtain hSame | ⟨rfl, rfl⟩ | ⟨rfl, hf, hFrame, rfl⟩ := runEvent_measurement he
    · exact absurd hSame (not_and_or.mpr hChange)
    · exact .inl ⟨rest, hp, rfl, rfl⟩
    · exact .inr ⟨rest, hp, hf, hFrame, rfl, rfl⟩

/-- Settles O49: a result, the error or a fault, each with the reads it leaves. -/
theorem valueCommandsChangeOnlyResultAndStatus : Obligations.ValueCommandsChangeOnlyResultAndStatus := by
  intro i s hi
  obtain ⟨t, ht, hEnds⟩ := exec_ends i s
  refine ⟨t, ht, ?_, fun r hStatus hResult => ?_, fun hChange => (hEnds.result.resolve_left hChange).2⟩
  · cases hEnds with
    | success | error | fault => rfl
    | accepted hDecode _ => exact absurd hDecode hi
  · cases hEnds with
    | success v _ => exact readReg_completeOk v s r hStatus hResult
    | accepted hDecode _ => exact absurd hDecode hi
    | error e => exact readReg_completeErr e s r hStatus
    | fault c _ _ => exact readReg_raiseFault c s r hStatus

/-- Settles O50: DECODE accepts FRAME or ends in its error. -/
theorem decodeChangesOnlyTheMeasurementAndErr : Obligations.DecodeChangesOnlyTheMeasurementAndErr := by
  intro s
  obtain ⟨t, ht, hEnds⟩ := exec_ends .decode s
  refine ⟨t, ht, ?_⟩
  cases hEnds with
  | success _ hi => exact absurd rfl hi
  | accepted _ _ => exact ⟨rfl, readReg_acceptFrame s⟩
  | error e => exact ⟨rfl, fun r hStatus _ => readReg_completeErr e s r hStatus⟩
  | fault _ hi _ => exact absurd rfl hi

end Sys2Proof.Machine
end

section
/-! What a command reads (30_encoding.md R50; 40_frame_decoder.md R55, R61, R64; 41_scaling_engine.md R84). -/

namespace Sys2Proof.Machine

open Sys2Proof.Safety

/-- Two runs of a command end in the same way: with the same result, frame, error or cause, each in its own
state. -/
inductive EndsAlike (i : Instr) (s s' : State) : State → State → Prop
  | success (v : Word) (h : i ≠ .decode) : EndsAlike i s s' (completeOk v s) (completeOk v s')
  | accepted (h : i = .decode) (hFrame : s.frame = s'.frame) : EndsAlike i s s' (acceptFrame s) (acceptFrame s')
  | error (e : CommandError) : EndsAlike i s s' (completeErr e s) (completeErr e s')
  | fault (c : FaultCause) : EndsAlike i s s' (raiseFault c s) (raiseFault c s')

section
variable {i : Instr} {s s' : State}

theorem EndsAlike.success_of_eq {v v' : Word} (hv : v = v') (h : i ≠ .decode) :
    EndsAlike i s s' (completeOk v s) (completeOk v' s') :=
  hv ▸ .success v h

theorem scaleCore_endsAlike (h : i ≠ .decode) (w : Nat) (r lo hi sc : Int) :
    EndsAlike i s s' (scaleCore w r lo hi sc s) (scaleCore w r lo hi sc s') := by
  obtain ⟨hRange, e⟩ | ⟨hRange, hRaw, e⟩ | ⟨hRange, hRaw, hScale, e⟩ | ⟨hRange, hRaw, hScale, hFits, e⟩ |
    ⟨hRange, hRaw, hScale, hFits, e⟩ := scaleCore_cases w r lo hi sc s <;> rw [e]
  · rw [scaleCore_of_not_lt hRange]
    exact .fault _
  · rw [scaleCore_of_raw_out_of_range hRange hRaw]
    exact .fault _
  · rw [scaleCore_of_scale_not_positive hRange hRaw hScale]
    exact .fault _
  · rw [scaleCore_of_not_fits hRange hRaw hScale hFits]
    exact .error _
  · rw [scaleCore_of_fits hRange hRaw hScale hFits]
    exact .success _ h

theorem scaleFixed_endsAlike (h : i ≠ .decode) (range : Config.ScaledRange) {r r' : BitVec 14} (hr : r = r')
    {sc sc' : Int} (hScale : sc = sc') :
    EndsAlike i s s' (scaleFixed range r sc s) (scaleFixed range r' sc' s') := by
  rw [hr, hScale]
  exact scaleCore_endsAlike h _ _ _ _ _

theorem requireMeasurement_endsAlike (hMv : s.mv = s'.mv) {k k' : State → State}
    (hk : EndsAlike i s s' (k s) (k' s')) :
    EndsAlike i s s' (requireMeasurement k s) (requireMeasurement k' s') := by
  unfold requireMeasurement
  rw [← hMv]
  split
  · exact hk
  · exact .fault _

theorem execDecode_endsAlike (h : i = .decode) (hFrame : s.frame = s'.frame) :
    EndsAlike i s s' (if cmode s.frame then completeErr .cmode s else acceptFrame s)
      (if cmode s'.frame then completeErr .cmode s' else acceptFrame s') := by
  rw [← hFrame]
  split
  · exact .error _
  · exact .accepted h hFrame

/-- Two states that agree on a command's operands end it in the same way. -/
theorem exec_endsAlike (h : OperandsAgree i s s') :
    ∃ t t', exec i s = .next t ∧ exec i s' = .next t' ∧ EndsAlike i s s' t t' := by
  cases i <;> refine ⟨_, _, rfl, rfl, ?_⟩
  case decode => exact execDecode_endsAlike rfl h
  case stale =>
    obtain ⟨hMv, hStale : stale s.meas = stale s'.meas⟩ := h
    exact requireMeasurement_endsAlike hMv (.success_of_eq (by rw [hStale]) (by decide))
  case humRaw =>
    obtain ⟨hMv, hRaw : humRaw s.meas = humRaw s'.meas⟩ := h
    exact requireMeasurement_endsAlike hMv (.success_of_eq (by rw [hRaw]) (by decide))
  case tempRaw =>
    obtain ⟨hMv, hRaw : tempRaw s.meas = tempRaw s'.meas⟩ := h
    exact requireMeasurement_endsAlike hMv (.success_of_eq (by rw [hRaw]) (by decide))
  case scaled =>
    obtain ⟨hRaw, hMin, hMax, hScale⟩ := h
    rw [hRaw, hMin, hMax, hScale]
    exact scaleCore_endsAlike (by decide) _ _ _ _ _
  case humScaled =>
    obtain ⟨hMv, hRaw, hScale⟩ := h
    exact requireMeasurement_endsAlike hMv (scaleFixed_endsAlike (by decide) _ hRaw (congrArg zext hScale))
  case tempScaled =>
    obtain ⟨hMv, hRaw, hScale⟩ := h
    exact requireMeasurement_endsAlike hMv (scaleFixed_endsAlike (by decide) _ hRaw (congrArg zext hScale))
  case hum =>
    obtain ⟨hMv, hRaw⟩ := h
    exact requireMeasurement_endsAlike hMv (scaleFixed_endsAlike (by decide) _ hRaw rfl)
  case temp =>
    obtain ⟨hMv, hRaw⟩ := h
    exact requireMeasurement_endsAlike hMv (scaleFixed_endsAlike (by decide) _ hRaw rfl)

end

/-- Settles O51: the two runs end alike, and each way to end names what is written. -/
theorem commandsReadOnlyTheirOperands : Obligations.CommandsReadOnlyTheirOperands := by
  intro i s s' hAgree
  obtain ⟨t, t', ht, ht', hAlike⟩ := exec_endsAlike hAgree
  rw [ht, ht']
  cases hAlike with
  | success v _ => exact .inl ⟨v, rfl, rfl⟩
  | accepted _ hFrame => exact .inr (.inl ⟨s'.frame, by rw [← hFrame]; rfl, rfl⟩)
  | error e => exact .inr (.inr (.inl ⟨errorCode e, rfl, rfl⟩))
  | fault c => exact .inr (.inr (.inr ⟨causeCode c, rfl, rfl⟩))

/-- R64: bits 1:0 of MEAS are an operand of no command. -/
theorem operandsAgree_of_div_four_eq (i : Instr) (s : State) {m : Word} (h : m.toNat / 4 = s.meas.toNat / 4) :
    OperandsAgree i s { s with meas := m } := by
  obtain ⟨-, hStale, hHum, hTemp⟩ := frameFields_eq_of_div_four_eq h.symm
  cases i with
  | decode => rfl
  | scaled => exact ⟨rfl, rfl, rfl, rfl⟩
  | stale => exact ⟨rfl, hStale⟩
  | humRaw | hum => exact ⟨rfl, hHum⟩
  | tempRaw | temp => exact ⟨rfl, hTemp⟩
  | humScaled => exact ⟨rfl, hHum, rfl⟩
  | tempScaled => exact ⟨rfl, hTemp, rfl⟩

/-- Settles O22: the two states agree on the operands, and a command other than DECODE leaves MEAS as it is. -/
theorem unusedFrameBitsReachNoResult : Obligations.UnusedFrameBitsReachNoResult := by
  intro i s m hi hBits
  obtain ⟨t, t', ht, ht', hAlike⟩ := exec_endsAlike (operandsAgree_of_div_four_eq i s hBits)
  refine ⟨t, ht, ?_⟩
  cases hAlike with
  | success | error | fault => exact ht'
  | accepted hDecode _ => exact absurd hDecode hi

/-- States with the same inputs agree on the operands of DECODE and SCALED, and with the same Measurement on those of
every command. -/
theorem operandsAgree_of_sameInputs {i : Instr} {s t : State} (h : SameInputs s t)
    (hMeasurement : i ≠ .decode → SameMeasurement s t) : OperandsAgree i s t := by
  cases i with
  | decode => exact h.frame.symm
  | scaled => exact ⟨h.raw.symm, h.min.symm, h.max.symm, h.scale.symm⟩
  | stale | humRaw | tempRaw | hum | temp =>
    obtain ⟨hMeas, hMv⟩ := hMeasurement (by decide)
    exact ⟨hMv.symm, by rw [hMeas]⟩
  | humScaled | tempScaled =>
    obtain ⟨hMeas, hMv⟩ := hMeasurement (by decide)
    exact ⟨hMv.symm, by rw [hMeas], h.scale.symm⟩

/-- Ending a command again in the way it ended before changes nothing. -/
theorem EndsAlike.eq_of_repeated {i : Instr} {s t u t' : State} (h : EndsAlike i s t u t') (hu : u = t) :
    t' = t := by
  cases h with
  | success | accepted | error | fault => rw [← hu]; rfl

/-- R84: a command's end state has the operands the command had. -/
theorem exec_repeated {i : Instr} {s t : State} (h : exec i s = .next t) : exec i t = .next t := by
  have hOperands : OperandsAgree i s t := by
    obtain ⟨u, hu, hEnds⟩ := exec_ends i s
    cases h.symm.trans hu
    exact operandsAgree_of_sameInputs hEnds.sameInputs fun hi =>
      hEnds.measurement.resolve_right fun hDecode => hi hDecode.1
  obtain ⟨u, t', hu, ht', hAlike⟩ := exec_endsAlike hOperands
  cases hu.symm.trans h
  rw [ht', hAlike.eq_of_repeated rfl]

theorem executeCommand_repeated {w : Word} {s t : State} (h : executeCommand w s = .next t) :
    executeCommand w t = .next t := by
  obtain ⟨hf, he⟩ | ⟨-, -, he⟩ | ⟨-, i, u, hd, hExec, he, -⟩ := executeCommand_cases w s <;>
    cases h.symm.trans he
  · exact he
  · exact executeCommand_of_faulted w _ rfl
  · cases hf : t.faulted with
    | true => exact executeCommand_of_faulted w t hf
    | false =>
      rw [(decode_eq_ok_iff_eq_encode w i).mp hd, executeCommand_encode i t hf]
      exact exec_repeated hExec

/-- Settles O52: RESULT is no operand, the operand registers are inputs of every command, and a repeated command finds
the operands it had. -/
theorem repeatedCommandGivesTheSameOutcome : Obligations.RepeatedCommandGivesTheSameOutcome := by
  refine ⟨fun i s v => ?_, fun i s t h => ?_, fun i s => ?_, fun w s => ?_⟩
  · have hOperands : OperandsAgree i s { s with result := v } :=
      operandsAgree_of_sameInputs ⟨rfl, rfl, rfl, rfl, rfl, rfl, rfl⟩ fun _ => ⟨rfl, rfl⟩
    obtain ⟨t, t', ht, ht', hAlike⟩ := exec_endsAlike hOperands
    refine ⟨t, t', ht, ht', ?_⟩
    cases hAlike with
    | success => exact ⟨rfl, .inl rfl⟩
    | accepted | error | fault => exact ⟨rfl, .inr ⟨rfl, rfl⟩⟩
  · have hInputs := exec_sameInputs h
    exact ⟨hInputs.frame, hInputs.raw, hInputs.min, hInputs.max, hInputs.scale⟩
  · obtain ⟨t, ht, -⟩ := exec_ends i s
    exact ⟨t, ht, exec_repeated ht⟩
  · obtain ⟨t, ht⟩ := executeCommand_next w s
    exact ⟨t, ht, executeCommand_repeated ht⟩

end Sys2Proof.Machine
end

section
/-! The bytes of a frame (10_state.md R13; 20_memory.md R37). -/

namespace Sys2Proof.Machine

/-- Byte `k` is a base-256 digit of its word. -/
theorem frameByte_toNat (k : Fin 4) (w : Word) : (frameByte k w).toNat = w.toNat / 2 ^ (24 - 8 * k.val) % 256 := by
  simp [frameByte, BitVec.extractLsb'_toNat, Nat.shiftRight_eq_div_pow]

theorem frameBytes_toNat (w : Word) :
    (frameByte 0 w).toNat = w.toNat / 2 ^ 24 % 256 ∧ (frameByte 1 w).toNat = w.toNat / 2 ^ 16 % 256 ∧
    (frameByte 2 w).toNat = w.toNat / 2 ^ 8 % 256 ∧ (frameByte 3 w).toNat = w.toNat / 2 ^ 0 % 256 :=
  ⟨frameByte_toNat 0 w, frameByte_toNat 1 w, frameByte_toNat 2 w, frameByte_toNat 3 w⟩

theorem frameByte_packFrame (b0 b1 b2 b3 : Byte) :
    frameByte 0 (packFrame b0 b1 b2 b3) = b0 ∧ frameByte 1 (packFrame b0 b1 b2 b3) = b1 ∧
    frameByte 2 (packFrame b0 b1 b2 b3) = b2 ∧ frameByte 3 (packFrame b0 b1 b2 b3) = b3 := by
  obtain ⟨h0, h1, h2, h3⟩ := frameBytes_toNat (packFrame b0 b1 b2 b3)
  rw [packFrame_toNat] at h0 h1 h2 h3
  have hb0 := b0.isLt
  have hb1 := b1.isLt
  have hb2 := b2.isLt
  have hb3 := b3.isLt
  exact ⟨BitVec.eq_of_toNat_eq (by omega), BitVec.eq_of_toNat_eq (by omega), BitVec.eq_of_toNat_eq (by omega),
    BitVec.eq_of_toNat_eq (by omega)⟩

theorem packFrame_frameByte (w : Word) :
    packFrame (frameByte 0 w) (frameByte 1 w) (frameByte 2 w) (frameByte 3 w) = w := by
  obtain ⟨h0, h1, h2, h3⟩ := frameBytes_toNat w
  have hw := w.isLt
  apply BitVec.eq_of_toNat_eq
  rw [packFrame_toNat, h0, h1, h2, h3]
  omega

/-- Settles O13: the word is the sum of its weighted bytes, and each byte is a digit of it. -/
theorem frameBytesArePackedMostSignificantFirst : Obligations.FrameBytesArePackedMostSignificantFirst :=
  ⟨fun b0 b1 b2 b3 => ⟨packFrame_toNat b0 b1 b2 b3, frameByte_packFrame b0 b1 b2 b3⟩, packFrame_frameByte⟩

end Sys2Proof.Machine
end

section
/-! SCALED at the largest scales (41_scaling_engine.md section 2). -/

namespace Sys2Proof.Machine

/-- From 2^31 on, a scale takes one end of every range out of 32 bits, but for 2^31 itself and the range (-1, 0). -/
theorem overflows_of_scale_ge {lo hi sc : Int} (hRange : lo < hi) (hScale : 2 ^ 31 ≤ sc)
    (hCorner : 2 ^ 31 < sc ∨ ¬ (lo = -1 ∧ hi = 0)) : 2 ^ 31 - 1 < sc * hi ∨ sc * lo < -2 ^ 31 := by
  have hMul {a b : Int} (h : a ≤ b) : sc * a ≤ sc * b := mul_le_mul_of_nonneg_left h (by omega)
  by_cases hHi : 1 ≤ hi
  · have := hMul hHi
    exact .inl (by omega)
  · by_cases hLo : lo ≤ -2
    · have := hMul hLo
      exact .inr (by omega)
    · have : sc * lo = -sc := by rw [show lo = -1 by omega, mul_neg_one]
      exact .inr (by omega)

/-- In the corner, the range (-1, 0) at scale 2^31, the worst-case check passes. -/
theorem exec_scaled_of_corner {s : State} (hMin : s.min.toInt = -1) (hMax : s.max.toInt = 0)
    (hScale : s.scale.toNat = 2 ^ 31) (hRaw : s.raw.toNat ≤ 16383) :
    exec .scaled s = .next (completeOk (twos32 (interp s.raw.toNat (-1) 0 (2 ^ 31))) s) := by
  rw [exec_scaled, hMin, hMax, hScale]
  exact congrArg _ (scaleCore_of_fits (by decide) (by omega) (by decide) (by decide))

/-- Settles O29: the overflow leaves only SCALED's error; in the corner the two ends are its interpolation at the
ends of the sample range. -/
theorem scalesAboveTwoToThe31NeverSucceed : Obligations.ScalesAboveTwoToThe31NeverSucceed := by
  obtain ⟨-, -, -, -, hOverflow, -⟩ := scaledChecksThenInterpolates
  refine ⟨fun s hRange hRaw hScale => ?_, fun s hRange hRaw hScale hNot => ?_, fun s hMin hMax hScale hRaw => ?_,
    fun s hMin hMax hScale hRaw => ?_⟩
  · exact hOverflow s hRange hRaw (by omega) (overflows_of_scale_ge hRange (by omega) (.inl (by omega)))
  · exact hOverflow s hRange hRaw (by omega) (overflows_of_scale_ge hRange (by omega) (.inr hNot))
  · rw [exec_scaled_of_corner hMin hMax hScale (by omega), hRaw, Nat.cast_zero, interp_raw_zero]
    rfl
  · rw [exec_scaled_of_corner hMin hMax hScale (by omega), hRaw, Nat.cast_ofNat, interp_raw_max]
    rfl

end Sys2Proof.Machine
end

section
/-! The 64-bit datapath (41_scaling_engine.md R80): its operands are the integers of SCALED modulo 2^64, and every
value it compares or divides is below 2^63. -/

namespace Sys2Proof.Machine

/-- An integer that fits 64 signed bits is recovered from its 64-bit word. -/
theorem ofInt64_toInt {n : Int} (hLo : -2 ^ 63 ≤ n) (hHi : n < 2 ^ 63) : (BitVec.ofInt 64 n).toInt = n :=
  BitVec.toInt_ofInt_eq_self (by decide) hLo hHi

theorem setWidth64_eq_ofInt (v : Word) : v.setWidth 64 = BitVec.ofInt 64 v.toNat := by
  rw [BitVec.ofInt_natCast, BitVec.ofNat_toNat]

theorem signExtend64_eq_ofInt (v : Word) : v.signExtend 64 = BitVec.ofInt 64 v.toInt := rfl

/-! ### The checks -/

theorem signExtend64_slt (lo hi : Word) :
    (lo.signExtend 64).slt (hi.signExtend 64) = decide (lo.toInt < hi.toInt) := by
  rw [BitVec.slt_eq_decide, BitVec.toInt_signExtend_of_le (by decide), BitVec.toInt_signExtend_of_le (by decide)]

theorem setWidth64_ule (v : Word) (n : Nat) (hn : n < 2 ^ 64) :
    (v.setWidth 64).ule (BitVec.ofNat 64 n) = decide (v.toNat ≤ n) := by
  rw [BitVec.ule_eq_decide, BitVec.toNat_setWidth_of_le (by decide), BitVec.toNat_ofNat, Nat.mod_eq_of_lt hn]

theorem setWidth64_beq_zero (v : Word) : (v.setWidth 64 == 0) = decide (v.toNat = 0) := by
  rw [beq_eq_decide]
  refine decide_eq_decide.mpr ?_
  rw [← BitVec.toNat_inj, BitVec.toNat_setWidth_of_le (by decide)]
  rfl

/-- A scale times a bound is below 2^63, so the product does not wrap. -/
theorem fits32_scale_mul (sc v : Word) :
    fits32 (sc.setWidth 64 * v.signExtend 64) = decide (Fits 32 (sc.toNat * v.toInt)) := by
  have hSc := sc.isLt
  have hLo : (sc.toNat : Int) * -2 ^ 31 ≤ sc.toNat * v.toInt :=
    mul_le_mul_of_nonneg_left v.le_toInt (by omega)
  have hHi : (sc.toNat : Int) * v.toInt ≤ sc.toNat * 2 ^ 31 :=
    mul_le_mul_of_nonneg_left v.toInt_lt.le (by omega)
  rw [setWidth64_eq_ofInt, signExtend64_eq_ofInt, ← BitVec.ofInt_mul, fits32, BitVec.sle_eq_decide,
    BitVec.sle_eq_decide, ofInt64_toInt (n := sc.toNat * v.toInt) (by omega) (by omega), ← Bool.decide_and]
  rfl

/-! ### The interpolation -/

/-- Truncating division is floor division when the numerator is not negative. -/
theorem sdiv_ofInt64 {n d : Int} (hn : 0 ≤ n) (hn' : n < 2 ^ 63) (hd : 0 < d) (hd' : d < 2 ^ 63) :
    (BitVec.ofInt 64 n).sdiv (BitVec.ofInt 64 d) = BitVec.ofInt 64 (n / d) := by
  apply BitVec.eq_of_toInt_eq
  rw [BitVec.toInt_sdiv, ofInt64_toInt (by omega) hn', ofInt64_toInt (by omega) hd',
    Int.tdiv_eq_ediv_of_nonneg hn, BitVec.toInt_ofInt]

/-- R80: with a numerator from 0 to below 2^63, the wrapping arithmetic computes the interpolation modulo 2^64. -/
theorem interp64_ofInt {r lo hi sc : Int} (hLo : 0 ≤ sc * r * (hi - lo)) (hHi : sc * r * (hi - lo) + 8191 < 2 ^ 63) :
    interp64 (BitVec.ofInt 64 r) (BitVec.ofInt 64 lo) (BitVec.ofInt 64 hi) (BitVec.ofInt 64 sc) =
      BitVec.ofInt 64 (interp r lo hi sc) := by
  have hNumerator : BitVec.ofInt 64 sc * BitVec.ofInt 64 r * (BitVec.ofInt 64 hi - BitVec.ofInt 64 lo) +
      BitVec.ofNat 64 8191 = BitVec.ofInt 64 (sc * r * (hi - lo) + 8191) := by
    rw [BitVec.ofInt_add, BitVec.ofInt_mul, BitVec.ofInt_mul, sub_eq_add_neg hi, BitVec.ofInt_add, BitVec.ofInt_neg,
      ← BitVec.sub_eq_add_neg]
    rfl
  have hDivisor : BitVec.ofNat 64 16383 = BitVec.ofInt 64 16383 := rfl
  rw [interp64, hNumerator, hDivisor, sdiv_ofInt64 (by omega) hHi (by decide) (by decide), ← BitVec.ofInt_mul,
    ← BitVec.ofInt_add, interp_eq]

/-- Once the worst-case check has passed, the numerator is below 2^63. -/
theorem numerator_lt {r lo hi sc : Int} (hRange : lo < hi) (hScale : 1 ≤ sc) (hr : 0 ≤ r) (hr' : r ≤ 16383)
    (hFits : WorstCaseFits 32 lo hi sc) : sc * r * (hi - lo) + 8191 < 2 ^ 63 := by
  obtain ⟨hLo, hHi⟩ := (worstCaseFits_iff hRange hScale 32).mp hFits
  rw [outMin_32] at hLo
  rw [outMax_32] at hHi
  have hSpan : sc * (hi - lo) ≤ 2 ^ 32 := by rw [mul_sub]; omega
  calc sc * r * (hi - lo) + 8191 = r * (sc * (hi - lo)) + 8191 := by ring
    _ ≤ r * 2 ^ 32 + 8191 := by have := mul_le_mul_of_nonneg_left hSpan hr; omega
    _ < 2 ^ 63 := by omega

/-- The low word of the 64-bit result is the core's result word. -/
theorem setWidth32_ofInt64 (n : Int) : (BitVec.ofInt 64 n).setWidth 32 = twos32 n := by
  apply BitVec.eq_of_toNat_eq
  rw [BitVec.toNat_setWidth, twos32, BitVec.toNat_ofInt, BitVec.toNat_ofInt]
  omega

theorem worstCaseFits_eq (w : Nat) (lo hi sc : Int) :
    WorstCaseFits w lo hi sc = (Fits w (sc * hi) ∧ Fits w (sc * lo)) := by
  have hMax : interp Config.rawMax lo hi sc = sc * hi := interp_raw_max lo hi sc
  rw [WorstCaseFits, hMax, interp_raw_zero]

/-- Settles O37: each check of the datapath decides the core's check, and after them the interpolations agree. -/
theorem sixtyFourBitDatapathComputesScaled : Obligations.SixtyFourBitDatapathComputesScaled := by
  intro s
  rw [exec_scaled]
  refine congrArg _ ?_
  simp only [scaled64, signExtend64_slt, setWidth64_ule _ 16383 (by decide), setWidth64_beq_zero, fits32_scale_mul,
    ← Bool.decide_and, Bool.not_eq_true', decide_eq_true_eq, decide_eq_false_iff_not, ← worstCaseFits_eq]
  split_ifs with hRange hRaw hScale hFits
  · exact scaleCore_of_scale_not_positive hRange (by omega) (by omega)
  · have hNumerator := numerator_pos s.raw.toNat _ _ s.scale.toNat (by omega) hRange (by omega)
    have hBound := numerator_lt hRange (by omega) (by omega) (by omega) hFits (r := s.raw.toNat)
    rw [scaleCore_of_fits hRange (by omega) (by omega) hFits, setWidth64_eq_ofInt, setWidth64_eq_ofInt,
      signExtend64_eq_ofInt, signExtend64_eq_ofInt, interp64_ofInt hNumerator hBound, setWidth32_ofInt64]
  · exact scaleCore_of_not_fits hRange (by omega) (by omega) hFits
  · exact scaleCore_of_raw_out_of_range hRange (by omega)
  · exact scaleCore_of_not_lt hRange

end Sys2Proof.Machine
end

section
/-! Command words and host-program lines at the step (30_encoding.md R46 to R54). -/

namespace Sys2Proof.Machine

/-- Settles O4: the decoder evaluated at each of the nine words. -/
theorem writtenOutWordsDecode : Obligations.WrittenOutWordsDecode := by
  unfold Obligations.WrittenOutWordsDecode
  decide

/-- Settles O6: the word is the command's, and its CMD write runs the command. -/
theorem stepRunsTheDecodedCommand : Obligations.StepRunsTheDecodedCommand := by
  intro s rest w i hf hd
  rw [step_commandWrite, (decode_eq_ok_iff_eq_encode w i).mp hd]
  exact executeCommand_encode i _ hf

/-- A word is the two's complement of its value. -/
theorem twos32_toNat (w : Word) : twos32 w.toNat = w := by
  rw [twos32_natCast, BitVec.ofNat_toNat, BitVec.setWidth_eq]

/-- Settles O7: each line by its definition; the mnemonic's word by its value; and its step by R49. -/
theorem hostProgramLinesStandForTransactions : Obligations.HostProgramLinesStandForTransactions := by
  refine ⟨fun r v => ⟨rfl, rfl, rfl, rfl⟩, fun i => ⟨rfl, ?_⟩, fun s i hf => ?_, by decide⟩
  · exact congrArg commandEvent (twos32_toNat (encode i)).symm
  · calc step (loadProgram [.mnemonic i] s)
        = executeCommand (encode i) s := step_commandWrite s s.pending (encode i)
      _ = exec i s := executeCommand_encode i s hf

end Sys2Proof.Machine
end

section
/-! The host's side of a step (20_memory.md R40; 60_exceptions.md R97; 70_reset_and_hazards.md R109). -/

namespace Sys2Proof.Machine

/-- Settles O42: the event is refused whatever its transaction. -/
theorem secondHostIsRefused : Obligations.SecondHostIsRefused := fun _ _ _ => rfl

/-- Settles O43: with nothing pending the step is the waiting one. -/
theorem blockWaitsWhenTheHostIsSilent : Obligations.BlockWaitsWhenTheHostIsSilent := by
  intro s hp
  rw [step, runNext, hp]

/-- A step at a state whose program begins with `e` is that event. -/
theorem step_of_pending {s : State} {e : Event} {rest : List Event} (h : s.pending = e :: rest) :
    step s = runEvent e { s with pending := rest } := by
  rw [step, runNext, h]

theorem step_read_of_pending {s : State} {r : Reg} {rest : List Event}
    (h : s.pending = .transaction (.read (regOffset r) 4) :: rest) :
    step s = .next (hostRead r { s with pending := rest }) := by
  rw [step_of_pending h, ← step_pending, step_read_regOffset]

theorem step_write_of_pending {s : State} {r : Reg} {v : Word} {rest : List Event} (hr : r ≠ .cmd)
    (h : s.pending = .transaction (.write (regOffset r) 4 v) :: rest) :
    step s = .next (storeReg r v { s with pending := rest }) := by
  rw [step_of_pending h, ← step_pending, step_write_regOffset_of_ne_cmd s rest hr]

/-- R40: the second of two equal stores changes nothing. -/
theorem storeReg_repeated (r : Reg) (v : Word) (s : State) (p : List Event) :
    storeReg r v { storeReg r v s with pending := p } = { storeReg r v s with pending := p } := by
  cases r <;> rfl

/-- Settles O44: a read returns its register, which no read changes; a write off CMD stores its register, and stores
it again. -/
theorem onlyCommandWritesHaveSideEffects : Obligations.OnlyCommandWritesHaveSideEffects := by
  refine ⟨fun s t rest off h => ?_, fun s t rest off v hOff h => ?_⟩
  · obtain ⟨-, hMapped⟩ := (runTransaction_next_iff_admissible (.read off 4) _).mp ⟨t, h⟩
    obtain ⟨r, rfl⟩ := (exists_regOffset_iff off).mpr hMapped
    cases h.symm.trans (step_read_regOffset s _ r)
    refine ⟨readReg r s, by rw [hostRead, readReg_pending], ?_⟩
    rw [step_read_of_pending rfl, hostRead, readReg_pending, readReg_hostRead, readReg_pending, hostRead,
      readReg_pending]
  · obtain ⟨-, hMapped⟩ := (runTransaction_next_iff_admissible (.write off 4 v) _).mp ⟨t, h⟩
    obtain ⟨r, rfl⟩ := (exists_regOffset_iff off).mpr hMapped
    have hr : r ≠ .cmd := fun hCmd => hOff (congrArg regOffset hCmd)
    cases h.symm.trans (step_write_regOffset_of_ne_cmd s _ hr v)
    refine ⟨fun r' hOther => ?_, storeReg_returned r v _, ?_⟩
    · rw [readReg_storeReg, if_neg fun hSame => hOther (congrArg regOffset hSame.1.symm), readReg_pending]
    · rw [step_write_of_pending hr (storeReg_pending r v _), storeReg_repeated]

end Sys2Proof.Machine
end
